-- ==== Sys2Proof/Word.lean ====
section
/-! DEFINITION. The word types of the machine: 8-bit register and memory values, 16-bit instruction words, program
counter and index register (00_scope.md R4, R5: all values unsigned, bit 0 least significant). -/

namespace Sys2Proof

/-- A general register, a timer, a memory cell: 8 bits (R10, R15, R40). -/
abbrev Byte := BitVec 8

/-- An instruction word, `pc`, `I`, a stack entry: 16 bits (R12, R13, R14, R60). -/
abbrev Word := BitVec 16

/-- A 4-bit field: a register number `x`, `y`, the count `n`, a key number (R61). -/
abbrev Nibble := BitVec 4

/-- A 12-bit address field `nnn` (R61). -/
abbrev Addr := BitVec 12

end Sys2Proof
end

