-- ==== Sys2Proof/Config.lean ====
section
/-! DEFINITION. What an implementation fixes and what the spec leaves free: the parameters of 00_scope.md R4 that a rule
depends on, and the random input. -/

namespace Sys2Proof

/-- `SHIFT_SRC` (R4, D4): which register `8xy6` and `8xyE` shift. -/
inductive ShiftSrc where
  | x
  | y
  deriving DecidableEq, Repr

/-- The parameters of R4 that a rule of the machine depends on (R24: fixed for the life of a machine). -/
structure Config where
  /-- `SHIFT_SRC` (R109, R111; log 6). -/
  shiftSrc : ShiftSrc
  /-- `FONT_TABLE`, the 80 bytes of 0x000 to 0x04F after a reset (R44; log 7). -/
  fontTable : Vector Byte 80
  deriving DecidableEq, Repr

/-- The default `FONT_TABLE` (92_eei_decisions.md, table under D10): glyph `d` at offset `5*d`. -/
def Config.defaultFont : Vector Byte 80 :=
  #v[0xF0, 0x90, 0x90, 0x90, 0xF0,
     0x20, 0x60, 0x20, 0x20, 0x70,
     0xF0, 0x10, 0xF0, 0x80, 0xF0,
     0xF0, 0x10, 0xF0, 0x10, 0xF0,
     0x90, 0x90, 0xF0, 0x10, 0x10,
     0xF0, 0x80, 0xF0, 0x10, 0xF0,
     0xF0, 0x80, 0xF0, 0x90, 0xF0,
     0xF0, 0x10, 0x20, 0x40, 0x40,
     0xF0, 0x90, 0xF0, 0x90, 0xF0,
     0xF0, 0x90, 0xF0, 0x10, 0xF0,
     0xF0, 0x90, 0xF0, 0x90, 0x90,
     0xE0, 0x90, 0xE0, 0x90, 0xE0,
     0xF0, 0x80, 0x80, 0x80, 0xF0,
     0xE0, 0x90, 0x90, 0x90, 0xE0,
     0xF0, 0x80, 0xF0, 0x80, 0xF0,
     0xF0, 0x80, 0xF0, 0x80, 0x80]

/-- The defaults the spec gives: `SHIFT_SRC = X` (D4) and the default `FONT_TABLE` (D10). -/
def Config.standard : Config := ⟨.x, Config.defaultFont⟩

/-- The random input `rnd` (R23, R31, R177, D11): the byte drawn at draw number `k`, under no law. A FREE VALUE: it has no
body, so a statement about `Cxnn` holds whatever is drawn (log 2). -/
opaque Config.randomByte : Nat → Byte

end Sys2Proof
end

