-- ==== Sys2Proof/Machine/State.lean ====
section
/-! DEFINITION. The state of the machine as plain data (10_state.md R10 to R25), the inputs and outputs of the block
(R31, R32), the reasons a step can stop, and the state after reset (R25). -/

namespace Sys2Proof.Machine

/-- The three execution anomalies, and no other (R160). -/
inductive Anomaly where
  /-- a word that matches no pattern (R161) -/
  | unknownOpcode
  /-- `2nnn` with a full stack (R83) -/
  | stackOverflow
  /-- `00EE` with an empty stack (R81) -/
  | stackUnderflow
  deriving DecidableEq, Repr

/-- One record of the event channel: the anomaly, the word, the address it was fetched from (R163). -/
structure Event where
  kind : Anomaly
  word : Word
  addr : Word
  deriving DecidableEq, Repr

/-- What the snapshot accessors show (R32, R182): not memory, keypad or limit. -/
structure Snapshot where
  fb : Vector (BitVec 64) 32
  v : Vector Byte 16
  pc : Word
  i : Word
  /-- the live entries, oldest first -/
  stack : List Word
  sp : Nat
  dt : Byte
  st : Byte
  cycles : Nat
  run : Bool
  deriving DecidableEq, Repr

/-- The inputs of the block (R31), each one step of one agent (R30); `rnd` is `Config.randomByte`. -/
inductive Input where
  /-- permission for one step of the CPU agent (R150) -/
  | cpuTick
  /-- permission for one step of the timer agent (R171) -/
  | timerTick
  /-- permission for one step of the watchdog (R180) -/
  | wdTick
  /-- host command `load(bytes, origin)` (R48, R49); with no origin given it is the default (R31) -/
  | load (bytes : List Byte) (origin : Option Nat)
  /-- host command `reset()` (R200) -/
  | reset
  /-- host command `set_key(key, pressed)` (R175) -/
  | setKey (key : Nat) (pressed : Bool)
  /-- host command `start(cycle_limit)` (R178) -/
  | start (limit : Option Nat)
  /-- host command `stop()` (R179) -/
  | stop
  /-- a read of the snapshot accessors (R182) -/
  | snapshot
  deriving DecidableEq, Repr

/-- The answers to the host (R31, R164, R182). -/
inductive Answer where
  | ok
  /-- `load` of more bytes than fit (R49) -/
  | romTooLarge
  /-- `set_key` of a key that does not exist (R175) -/
  | keyOutOfRange
  /-- what a snapshot read showed (R182) -/
  | snapshot (shown : Snapshot)
  deriving DecidableEq, Repr

/-- Memory: (address, byte) pairs, addresses strictly rising, none equal to what an unlisted address reads as
(`Memory.wf` in Ops.lean). -/
abbrev Memory := List Host.Cell

/-- The machine (10_state.md section 1), its parameters (R24), and the three fields that are the model's own. -/
structure State where
  /-- `V[0..15]` (R10); `V[15]` is the flag VF (R11) -/
  v : Vector Byte 16
  /-- `pc` (R12) -/
  pc : Word
  /-- `I` (R13) -/
  i : Word
  /-- `STACK[0..SP-1]`, oldest first; `SP` is the length (R14, D13; log 9) -/
  stack : List Word
  /-- `DT` (R15) -/
  dt : Byte
  /-- `ST` (R15) -/
  st : Byte
  /-- `KEY[0..15]`, true is pressed (R16) -/
  key : Vector Bool 16
  /-- `FB`: 32 rows of 64 pixels; bit `c` of row `r` is the pixel in column `c` (R17) -/
  fb : Vector (BitVec 64) 32
  /-- `MEM` (R21, R40) -/
  mem : Memory
  /-- `CYCLES` (R18) -/
  cycles : Nat
  /-- `RUN`: true Running, false Halted (R19) -/
  run : Bool
  /-- `LIMIT` (R20) -/
  limit : Option Nat
  /-- `EV`, oldest first (R22, R163) -/
  ev : List Event
  /-- the parameters (R4, R24): no step writes them -/
  config : Config
  /-- MODEL'S OWN: how many bytes of the random input were drawn (R23, R177; log 2) -/
  draws : Nat
  /-- MODEL'S OWN: the inputs still to come, first one next (R31, R33; log 1) -/
  inputs : List Input
  /-- MODEL'S OWN: the answer to the latest host command (R31, R164; log 4) -/
  answer : Option Answer
  deriving DecidableEq, Repr

/-- No fault: "There is no fatal/unrecoverable error class in the core", and "the step function of every agent is total and
never returns a fault" (R165). The type has no constructor, so nothing raises one. -/
inductive Fault where
  deriving DecidableEq, Repr

/-- Why a step has no meaning. -/
inductive Refusal where
  /-- Raised by an arm of `exec` for an instruction without a meaning yet; no arm does so. Safe. -/
  | notModelled (mnemonic : String)
  /-- Raised by the host command `load` while `RUN = 1`, to which the spec gives no meaning (R201, D17, U8; log 3). Safe. -/
  | loadWhileRunning
  /-- Raised by the host command `reset` while `RUN = 1` (R201, D17, U8; log 3). Safe. -/
  | resetWhileRunning
  /-- Raised by the host command `start` while `RUN = 1` (R178, D17, U8; log 3). Safe. -/
  | startWhileRunning
  deriving DecidableEq, Repr

/-- What an agent's step answers. -/
abbrev Result := Host.Outcome State Fault Refusal

/-- The machine after reset, and after power-on (R25, R200): nothing is loaded and it is Halted. `I`, `CYCLES`, `RUN`, `LIMIT`,
`EV` and the memory outside the font are the spec's decision D12 (log 5); the last four fields are the model's (logs 1, 2, 4, 6, 7). -/
def State.reset : State where
  v := Vector.replicate 16 0
  pc := 0x0200
  i := 0
  stack := []
  dt := 0
  st := 0
  key := Vector.replicate 16 false
  fb := Vector.replicate 32 0
  mem := []
  cycles := 0
  run := false
  limit := none
  ev := []
  config := Config.standard
  draws := 0
  inputs := []
  answer := none

end Sys2Proof.Machine
end

