-- ==== Sys2Proof/Machine/Ops.lean ====
section
/-! DEFINITION. The named operations over the state: registers, memory, stack, framebuffer, keypad, fetch, and `raise`, the
one way an anomaly is taken (00_scope.md R6). The machine has no trap entry and no return from one (R168, R169). -/

namespace Sys2Proof.Machine

/-! ### One home for every field -/

def State.setPc (s : State) (x : Word) : State := { s with pc := x }
def State.setI (s : State) (x : Word) : State := { s with i := x }
def State.setStack (s : State) (x : List Word) : State := { s with stack := x }
def State.setDt (s : State) (x : Byte) : State := { s with dt := x }
def State.setSt (s : State) (x : Byte) : State := { s with st := x }
def State.setFb (s : State) (x : Vector (BitVec 64) 32) : State := { s with fb := x }
def State.setMem (s : State) (x : Memory) : State := { s with mem := x }
def State.setRun (s : State) (x : Bool) : State := { s with run := x }
def State.setLimit (s : State) (x : Option Nat) : State := { s with limit := x }
def State.setInputs (s : State) (x : List Input) : State := { s with inputs := x }
def State.setAnswer (s : State) (x : Option Answer) : State := { s with answer := x }

/-- `CYCLES <- CYCLES + 1` (R18, R152). -/
def State.countCycle (s : State) : State := { s with cycles := s.cycles + 1 }

/-- A fresh draw of the random input is used up (R177). -/
def State.countDraw (s : State) : State := { s with draws := s.draws + 1 }

/-- `rnd()` (R6, R177): the byte of this draw, which no rule fixes. -/
def State.rnd (s : State) : Byte := Config.randomByte s.draws

/-! ### General registers (R10) -/

/-- `V[r]`. No register is hardwired. -/
def State.reg (s : State) (r : Nibble) : Byte := s.v[r.toNat]'r.isLt

/-- `V[r] <- b`. -/
def State.setReg (s : State) (r : Nibble) (b : Byte) : State := { s with v := s.v.set r.toNat b r.isLt }

/-! ### Memory (20_memory.md) -/

/-- What an address reads as when memory lists nothing there: the contents after a reset, the font in 0x000 to 0x04F and 0
above (R25, R44). -/
def unlisted (cfg : Config) (a : Nat) : Byte := if h : a < 80 then cfg.fontTable[a] else 0

/-- The listed byte at an address, if any. -/
def Memory.lookup : Memory → Nat → Option Byte
  | [], _ => none
  | (k, b) :: rest, a => if k = a then some b else Memory.lookup rest a

/-- List `b` at address `a`, in its place. -/
def Memory.insert : Memory → Nat → Byte → Memory
  | [], a, b => [(a, b)]
  | (k, c) :: rest, a, b =>
    if k < a then (k, c) :: Memory.insert rest a b
    else if k = a then (a, b) :: rest
    else (a, b) :: (k, c) :: rest

/-- List nothing at address `a`. -/
def Memory.erase (m : Memory) (a : Nat) : Memory := m.filter fun c => c.1 != a

/-- Write a byte, keeping the canonical form. -/
def Memory.put (cfg : Config) (m : Memory) (a : Nat) (b : Byte) : Memory :=
  if b = unlisted cfg a then Memory.erase m a else Memory.insert m a b

/-- Read a byte. -/
def Memory.get (cfg : Config) (m : Memory) (a : Nat) : Byte := (Memory.lookup m a).getD (unlisted cfg a)

/-- The canonical form: addresses strictly rising and below 4096, no entry equal to what an unlisted address reads as. -/
abbrev Memory.wf (cfg : Config) (m : Memory) : Prop :=
  m.Pairwise (fun c d => c.1 < d.1) ∧ ∀ c ∈ m, c.1 < 4096 ∧ c.2 ≠ unlisted cfg c.1

/-- `MemRead(addr, 1)` (R42): the address is reduced `mod 4096`, so the access never fails. -/
def State.memRead (s : State) (addr : Nat) : Byte := Memory.get s.config s.mem (addr % 4096)

/-- `MemWrite(addr, 1, b)` (R43): the address is reduced `mod 4096`; no region refuses a write. -/
def State.memWrite (s : State) (addr : Nat) (b : Byte) : State :=
  s.setMem (Memory.put s.config s.mem (addr % 4096) b)

/-- Bytes written one after another from `origin` (R48); the caller has checked the bounds. -/
def State.memWriteAll (s : State) : Nat → List Byte → State
  | _, [] => s
  | origin, b :: rest => (s.memWrite origin b).memWriteAll (origin + 1) rest

/-! ### Fetch (R45, R150) -/

/-- `MemRead(pc, 2)`: big-endian, each byte with its own address. -/
def State.fetchWord (s : State) : Word := wordOfBytes (s.memRead s.pc.toNat) (s.memRead (s.pc.toNat + 1))

/-- `pc <- pc + 2`, modulo 65536 (R12): the advance after the fetch, and a skip (R90). -/
def State.advance (s : State) : State := s.setPc (s.pc + 2)

/-- The word stored where the next fetch reads it. -/
def State.placeWord (s : State) (w : Word) : State :=
  (s.memWrite s.pc.toNat (highByte w)).memWrite (s.pc.toNat + 1) (lowByte w)

/-! ### The event channel (R160, R163) -/

/-- The codes of R160 (D18). -/
def Anomaly.code : Anomaly → Nat
  | .unknownOpcode => 1
  | .stackOverflow => 2
  | .stackUnderflow => 3

/-- `raise K(w, a)` (R6, R163, R168): one record is appended and nothing else changes; control goes nowhere. `pc` has been
advanced past the word (R150), so the fetch address `a` is `pc - 2`. -/
def State.raise (s : State) (kind : Anomaly) (w : Word) : State :=
  { s with ev := s.ev ++ [⟨kind, w, s.pc - 2⟩] }

/-! ### Stack (R14) -/

/-- `SP`. -/
def State.sp (s : State) : Nat := s.stack.length

/-! ### Framebuffer (R17) -/

/-- `FB[r][c]`. -/
def State.pixel (s : State) (r : Fin 32) (c : Fin 64) : Bool := s.fb[r].getLsbD c

/-- `FB[r][c] <- FB[r][c] ^ 1`. -/
def State.flipPixel (s : State) (r : Fin 32) (c : Fin 64) : State :=
  s.setFb (s.fb.set r (s.fb[r] ^^^ BitVec.twoPow 64 c))

/-- Every pixel 0. -/
def State.clearFb (s : State) : State := s.setFb (Vector.replicate 32 0)

/-! ### Keypad (R16) -/

/-- `KEY[k]`. -/
def State.keyDown (s : State) (k : Nibble) : Bool := s.key[k.toNat]'k.isLt

/-- `KEY[k] <- pressed`. -/
def State.setKey (s : State) (k : Nibble) (pressed : Bool) : State :=
  { s with key := s.key.set k.toNat pressed k.isLt }

/-- The least pressed key, the keys scanned in ascending order (R142). -/
def State.leastKey (s : State) : Option Nat :=
  (List.range 16).find? fun k => s.keyDown (BitVec.ofNat 4 k)

/-! ### Inputs (R31, R33) -/

/-- The input taken by the next step; with none pending it is the CPU's tick (log 1). -/
def State.nextInput (s : State) : Input := s.inputs.headD .cpuTick

/-- The state with that input taken. -/
def State.takeInput (s : State) : State := s.setInputs s.inputs.tail

/-! ### Snapshot (R182) -/

/-- What the accessors show. -/
def State.snapshot (s : State) : Snapshot where
  fb := s.fb
  v := s.v
  pc := s.pc
  i := s.i
  stack := s.stack
  sp := s.sp
  dt := s.dt
  st := s.st
  cycles := s.cycles
  run := s.run

/-- The fresh state (R200) of the same machine: its parameters, its random input and the inputs still to come are no part of
what a reset makes fresh (R24, R177). -/
def State.fresh (s : State) : State :=
  { State.reset with config := s.config, draws := s.draws, inputs := s.inputs, answer := s.answer }

end Sys2Proof.Machine
end

