-- ==== Sys2Proof/Machine/Operands.lean ====
section
/-! DEFINITION. The operand forms: zero-extended fields (R62), the one data addressing mode (R126), the shifted register
(D4), the selected key (D7), decimal digits (R123), the glyph address (R122), the sprite bit (R132), and the conditional skip (R90). -/

namespace Sys2Proof.Machine

/-- `zext_16(nnn)` (R62). -/
def zextAddr (nnn : Addr) : Word := nnn.setWidth 16

/-- `zext_16` of a byte (R62). -/
def zextByte (b : Byte) : Word := b.setWidth 16

/-- The effective address of element `k` of an access: `(I + k) mod 4096` (R126). -/
def State.elementAddr (s : State) (k : Nat) : Nat := (s.i.toNat + k) % 4096

/-- The operand of `8xy6` and `8xyE` (R109, R111): `V[x]` or `V[y]` as `SHIFT_SRC` says. -/
def State.shiftOperand (s : State) (x y : Nibble) : Byte :=
  match s.config.shiftSrc with
  | .x => s.reg x
  | .y => s.reg y

/-- The key that `Ex9E` and `ExA1` select: `V[x][3:0]` (R140, D7). -/
def State.selectedKey (s : State) (x : Nibble) : Nibble := (s.reg x).extractLsb' 0 4

/-- `FONT_ORIGIN + 5 * V[x]`, the whole byte, with `FONT_ORIGIN = 0` (R122). -/
def glyphAddr (b : Byte) : Word := BitVec.ofNat 16 (5 * b.toNat)

/-- Hundreds of a byte (R123). -/
def hundreds (b : Byte) : Byte := BitVec.ofNat 8 (b.toNat / 100)
/-- Tens of a byte (R123). -/
def tens (b : Byte) : Byte := BitVec.ofNat 8 (b.toNat / 10 % 10)
/-- Ones of a byte (R123). -/
def ones (b : Byte) : Byte := BitVec.ofNat 8 (b.toNat % 10)

/-- Bit `7 - k` of a sprite row: the pixel `k` columns from its left edge (R131, R132). -/
def spriteBit (row : Byte) (k : Nat) : Bool := row.getLsbD (7 - k)

/-- `if c then pc <- pc + 2` (R90). -/
def State.skipIf (s : State) (c : Bool) : State := if c then s.advance else s

end Sys2Proof.Machine
end

