-- ==== Sys2Proof/Machine/Flags.lean ====
section
/-! DEFINITION. The flag VF (R11, R100): every flag computation of the ALU, and the one order in which a result and its flag
are written. -/

namespace Sys2Proof.Machine

/-- VF is register 15 (R11). -/
def vf : Nibble := 0xF

/-- A flag is written as 0 or 1 (R11 (a)). -/
def flagByte (f : Bool) : Byte := if f then 1 else 0

/-- `8xy4`: the unmasked sum exceeds 255 (R107). -/
def carryOut (a b : Byte) : Bool := 255 < a.toNat + b.toNat

/-- `8xy5`, `8xy7`: the minuend is strictly greater; equality counts as borrow (R108, R110). -/
def noBorrow (minuend subtrahend : Byte) : Bool := subtrahend.toNat < minuend.toNat

/-- `8xy6`: the bit shifted out to the right (R109). -/
def shiftedOutLow (b : Byte) : Bool := b.getLsbD 0

/-- `8xyE`: the bit shifted out to the left (R111). -/
def shiftedOutHigh (b : Byte) : Bool := b.getLsbD 7

/-- The result first, the flag second, so that `x = 0xF` ends as the flag (R11 (c), R100). -/
def State.setRegThenFlag (s : State) (x : Nibble) (result : Byte) (flag : Bool) : State :=
  (s.setReg x result).setReg vf (flagByte flag)

end Sys2Proof.Machine
end

