-- ==== Sys2Proof/Machine/Alu.lean ====
section
/-! DEFINITION. Register load, arithmetic and logic instructions (41_alu.md R100 to R112). Only the five of R107 to R111 write
VF as a flag (R100, D24). -/

namespace Sys2Proof.Machine

/-- `6xnn` LD Vx, nn (R101). -/
def execLdImm (x : Nibble) (nn : Byte) (s : State) : Result := .next (s.setReg x nn)

/-- `7xnn` ADD Vx, nn: modulo 256, no flag (R102). -/
def execAddImm (x : Nibble) (nn : Byte) (s : State) : Result := .next (s.setReg x (s.reg x + nn))

/-- `8xy0` LD Vx, Vy (R103). -/
def execLdReg (x y : Nibble) (s : State) : Result := .next (s.setReg x (s.reg y))

/-- `8xy1` OR Vx, Vy (R104). -/
def execOrReg (x y : Nibble) (s : State) : Result := .next (s.setReg x (s.reg x ||| s.reg y))

/-- `8xy2` AND Vx, Vy (R105). -/
def execAndReg (x y : Nibble) (s : State) : Result := .next (s.setReg x (s.reg x &&& s.reg y))

/-- `8xy3` XOR Vx, Vy (R106). -/
def execXorReg (x y : Nibble) (s : State) : Result := .next (s.setReg x (s.reg x ^^^ s.reg y))

/-- `8xy4` ADD Vx, Vy: VF is the carry (R107). -/
def execAddReg (x y : Nibble) (s : State) : Result :=
  .next (s.setRegThenFlag x (s.reg x + s.reg y) (carryOut (s.reg x) (s.reg y)))

/-- `8xy5` SUB Vx, Vy: VF is 1 exactly when `V[x] > V[y]` (R108). -/
def execSubReg (x y : Nibble) (s : State) : Result :=
  .next (s.setRegThenFlag x (s.reg x - s.reg y) (noBorrow (s.reg x) (s.reg y)))

/-- `8xy6` SHR Vx, Vy (R109). -/
def execShr (x y : Nibble) (s : State) : Result :=
  .next (s.setRegThenFlag x (s.shiftOperand x y >>> 1) (shiftedOutLow (s.shiftOperand x y)))

/-- `8xy7` SUBN Vx, Vy: VF is 1 exactly when `V[y] > V[x]` (R110). -/
def execSubn (x y : Nibble) (s : State) : Result :=
  .next (s.setRegThenFlag x (s.reg y - s.reg x) (noBorrow (s.reg y) (s.reg x)))

/-- `8xyE` SHL Vx, Vy (R111). -/
def execShl (x y : Nibble) (s : State) : Result :=
  .next (s.setRegThenFlag x (s.shiftOperand x y <<< 1) (shiftedOutHigh (s.shiftOperand x y)))

/-- `Cxnn` RND Vx, nn: a fresh draw AND the mask (R112, R177). The draw is a FREE VALUE (log 2). -/
def execRnd (x : Nibble) (nn : Byte) (s : State) : Result := .next (s.countDraw.setReg x (s.rnd &&& nn))

end Sys2Proof.Machine
end

