-- ==== Sys2Proof/Machine/ControlFlow.lean ====
section
/-! DEFINITION. Control flow instructions (40_control_flow.md R80 to R90). On entry `pc` is the instruction's address plus 2
(R150). -/

namespace Sys2Proof.Machine

/-- `00EE` RET: pop the newest entry into `pc`; with an empty stack only the anomaly (R81). -/
def execRet (s : State) : Result :=
  match s.stack.getLast? with
  | none => .next (s.raise .stackUnderflow (encode .ret))
  | some target => .next ((s.setStack s.stack.dropLast).setPc target)

/-- `0nnn` SYS: nothing, and no event (R80, D6). -/
def execSys (_nnn : Addr) (s : State) : Result := .next s

/-- `1nnn` JP (R82). -/
def execJp (nnn : Addr) (s : State) : Result := .next (s.setPc (zextAddr nnn))

/-- `2nnn` CALL: push the advanced `pc`, then jump; with 16 entries only the anomaly (R83). -/
def execCall (nnn : Addr) (s : State) : Result :=
  if s.sp < 16 then .next ((s.setStack (s.stack ++ [s.pc])).setPc (zextAddr nnn))
  else .next (s.raise .stackOverflow (encode (.call nnn)))

/-- `Bnnn` JP V0: the sum is not reduced to 12 bits (R88). -/
def execJpV0 (nnn : Addr) (s : State) : Result := .next (s.setPc (zextByte (s.reg 0) + zextAddr nnn))

/-- `3xnn` SE Vx, nn (R84). -/
def execSeImm (x : Nibble) (nn : Byte) (s : State) : Result := .next (s.skipIf (s.reg x == nn))

/-- `4xnn` SNE Vx, nn (R85). -/
def execSneImm (x : Nibble) (nn : Byte) (s : State) : Result := .next (s.skipIf (s.reg x != nn))

/-- `5xy0` SE Vx, Vy (R86). -/
def execSeReg (x y : Nibble) (s : State) : Result := .next (s.skipIf (s.reg x == s.reg y))

/-- `9xy0` SNE Vx, Vy (R87). -/
def execSneReg (x y : Nibble) (s : State) : Result := .next (s.skipIf (s.reg x != s.reg y))

end Sys2Proof.Machine
end

