-- ==== Sys2Proof/Machine/Display.lean ====
section
/-! DEFINITION. Display instructions (43_display.md R130 to R132). -/

namespace Sys2Proof.Machine

/-- One sprite bit 1 landing on a pixel: VF is set if the pixel was 1, and the pixel is flipped (R131, C3). -/
def State.hitPixel (s : State) (r : Fin 32) (c : Fin 64) : State :=
  (if s.pixel r c then s.setReg vf 1 else s).flipPixel r c

/-- The first `k` bits of sprite row `r`, `row` its byte, the sprite's corner at column `cx`, row `cy`; coordinates wrap per
pixel (R131). -/
def State.drawBits (s : State) (cx cy : Byte) (r : Nat) (row : Byte) : Nat → State
  | 0 => s
  | k + 1 =>
    let t := s.drawBits cx cy r row k
    if spriteBit row k then t.hitPixel (Fin.ofNat 32 (cy.toNat + r)) (Fin.ofNat 64 (cx.toNat + k)) else t

/-- The first `n` rows of the sprite at `I` (R131). -/
def State.drawRows (s : State) (cx cy : Byte) : Nat → State
  | 0 => s
  | r + 1 => let t := s.drawRows cx cy r; t.drawBits cx cy r (t.memRead (t.elementAddr r)) 8

/-- `00E0` CLS: every pixel 0, VF not written (R130, D24). -/
def execCls (s : State) : Result := .next s.clearFb

/-- `Dxyn` DRW: both coordinates are read, then VF is cleared, then the rows are drawn (R131, D8). -/
def execDrw (x y n : Nibble) (s : State) : Result :=
  .next ((s.setReg vf 0).drawRows (s.reg x) (s.reg y) n.toNat)

end Sys2Proof.Machine
end

