-- ==== Sys2Proof/Machine/IndexMemory.lean ====
section
/-! DEFINITION. Index register and memory instructions (42_index_and_memory.md R120 to R126). None writes VF as a flag and the
stores and loads leave `I` alone (D24). -/

namespace Sys2Proof.Machine

/-- `V[0..k-1]` to `MEM[I..I+k)`, register 0 at the lowest address (R124). -/
def State.storeRegs (s : State) : Nat → State
  | 0 => s
  | k + 1 => (s.storeRegs k).memWrite (s.elementAddr k) (s.reg (BitVec.ofNat 4 k))

/-- `MEM[I..I+k)` to `V[0..k-1]` (R125). -/
def State.loadRegs (s : State) : Nat → State
  | 0 => s
  | k + 1 => (s.loadRegs k).setReg (BitVec.ofNat 4 k) (s.memRead (s.elementAddr k))

/-- `Annn` LD I, nnn (R120). -/
def execLdI (nnn : Addr) (s : State) : Result := .next (s.setI (zextAddr nnn))

/-- `Fx1E` ADD I, Vx: modulo 65536, no flag (R121, C1). -/
def execAddI (x : Nibble) (s : State) : Result := .next (s.setI (s.i + zextByte (s.reg x)))

/-- `Fx29` LD F, Vx (R122). -/
def execLdF (x : Nibble) (s : State) : Result := .next (s.setI (glyphAddr (s.reg x)))

/-- `Fx33` LD B, Vx: three digits, hundreds at `I` (R123). -/
def execLdB (x : Nibble) (s : State) : Result :=
  .next (((s.memWrite (s.elementAddr 0) (hundreds (s.reg x))).memWrite (s.elementAddr 1) (tens (s.reg x))).memWrite
    (s.elementAddr 2) (ones (s.reg x)))

/-- `Fx55` LD [I], Vx: `x + 1` registers (R124). -/
def execStore (x : Nibble) (s : State) : Result := .next (s.storeRegs (x.toNat + 1))

/-- `Fx65` LD Vx, [I]: `x + 1` registers (R125). -/
def execLoad (x : Nibble) (s : State) : Result := .next (s.loadRegs (x.toNat + 1))

end Sys2Proof.Machine
end

