-- ==== Sys2Proof/Machine/KeypadTimers.lean ====
section
/-! DEFINITION. Keypad and timer instructions (44_keypad_and_timers.md R140 to R145). -/

namespace Sys2Proof.Machine

/-- `Ex9E` SKP Vx: skip if the key is pressed (R140). -/
def execSkp (x : Nibble) (s : State) : Result := .next (s.skipIf (s.keyDown (s.selectedKey x)))

/-- `ExA1` SKNP Vx: skip if the key is not pressed (R141). -/
def execSknp (x : Nibble) (s : State) : Result := .next (s.skipIf (!s.keyDown (s.selectedKey x)))

/-- `Fx0A` LD Vx, K: the least pressed key, or back to the instruction itself (R142). -/
def execLdVxK (x : Nibble) (s : State) : Result :=
  match s.leastKey with
  | some k => .next (s.setReg x (BitVec.ofNat 8 k))
  | none => .next (s.setPc (s.pc - 2))

/-- `Fx07` LD Vx, DT (R143, G3). -/
def execLdVxDt (x : Nibble) (s : State) : Result := .next (s.setReg x s.dt)

/-- `Fx15` LD DT, Vx (R144). -/
def execLdDtVx (x : Nibble) (s : State) : Result := .next (s.setDt (s.reg x))

/-- `Fx18` LD ST, Vx (R145). -/
def execLdStVx (x : Nibble) (s : State) : Result := .next (s.setSt (s.reg x))

end Sys2Proof.Machine
end

