-- ==== Sys2Proof/Machine/Cycle.lean ====
section
/-! DEFINITION. The fetch-decode-execute cycle, the step of the CPU agent (45_cycle.md R150 to R154). -/

namespace Sys2Proof.Machine

/-- The count at the end of a completed cycle (R150, R152). -/
def finishCycle : Result → Result
  | .next s => .next s.countCycle
  | .fault r => .fault r
  | .refused r => .refused r

/-- What `execute(decode(w))` does with a fetched word, `pc` already advanced: the instruction's rule, or the anomaly of a word
that matches no pattern (R150, R161). -/
def executeWord (w : Word) (s : State) : Result :=
  match decodeWord w with
  | .ok i => exec i s
  | .error _ => .next (s.raise .unknownOpcode w)

/-- One cycle: fetch, advance, execute, count (R150). While Halted no cycle is taken (R151). -/
def cycle (s : State) : Result :=
  if s.run then finishCycle (executeWord s.fetchWord s.advance) else .next s

end Sys2Proof.Machine
end

