-- ==== Sys2Proof/Machine/Agents.lean ====
section
/-! DEFINITION. The steps of the other agents: the timer engine, the watchdog and the host's commands (60_exceptions.md R164,
R171 to R182; 20_memory.md R48, R49; 70_reset_and_hazards.md R200, R201). -/

namespace Sys2Proof.Machine

/-- A timer counts down and stops at 0 (R15, R171). -/
def countDown (t : Byte) : Byte := if t = 0 then 0 else t - 1

/-- One step of the timer agent, both decrements in it (R171, D15); none while Halted (R172, R181). -/
def timerStep (s : State) : Result :=
  .next (if s.run then (s.setDt (countDown s.dt)).setSt (countDown s.st) else s)

/-- The watchdog is enabled: `LIMIT` present and `CYCLES > LIMIT` (R180, C2). -/
def State.overLimit (s : State) : Bool :=
  match s.limit with
  | none => false
  | some l => l < s.cycles

/-- One step of the watchdog (R180). -/
def watchdogStep (s : State) : Result :=
  .next (if s.run && s.overLimit then s.setRun false else s)

/-- `LOAD_ORIGIN` (R4): the origin a `load` gives, 0x200 where it gives none (R31, R41, R48). -/
def loadOrigin (origin : Option Nat) : Nat := origin.getD 0x200

/-- `load(bytes, origin)` (R48, R49): all or nothing, checked over the integers; no meaning while Running (R201). -/
def hostLoad (bytes : List Byte) (origin : Option Nat) (s : State) : Result :=
  if s.run then .refused .loadWhileRunning
  else if bytes.length + loadOrigin origin ≤ 4096 then
    .next ((s.memWriteAll (loadOrigin origin) bytes).setAnswer (some .ok))
  else .next (s.setAnswer (some .romTooLarge))

/-- `reset()` (R200): the fresh state; no meaning while Running (R201). -/
def hostReset (s : State) : Result :=
  if s.run then .refused .resetWhileRunning else .next (s.fresh.setAnswer (some .ok))

/-- `set_key(key, pressed)` (R175), admitted in any state of `RUN` (D25). -/
def hostSetKey (key : Nat) (pressed : Bool) (s : State) : Result :=
  if key < 16 then .next ((s.setKey (BitVec.ofNat 4 key) pressed).setAnswer (some .ok))
  else .next (s.setAnswer (some .keyOutOfRange))

/-- `start(cycle_limit)` (R178); no meaning while Running (D17). Its `ok` is the model's (log 4). -/
def hostStart (limit : Option Nat) (s : State) : Result :=
  if s.run then .refused .startWhileRunning
  else .next (((s.setLimit limit).setRun true).setAnswer (some .ok))

/-- `stop()` (R179): `LIMIT` is left as it is. Its `ok` is the model's (log 4). -/
def hostStop (s : State) : Result := .next ((s.setRun false).setAnswer (some .ok))

/-- A read of the snapshot accessors (R182): it changes nothing but what is shown to the host. -/
def hostSnapshot (s : State) : Result := .next (s.setAnswer (some (.snapshot s.snapshot)))

/-- The step of the agent that an input belongs to (R30, R31). -/
def runInput (input : Input) (s : State) : Result :=
  match input with
  | .cpuTick => cycle s
  | .timerTick => timerStep s
  | .wdTick => watchdogStep s
  | .load bytes origin => hostLoad bytes origin s
  | .reset => hostReset s
  | .setKey key pressed => hostSetKey key pressed s
  | .start limit => hostStart limit s
  | .stop => hostStop s
  | .snapshot => hostSnapshot s

/-- The machine Running, its next input the CPU's tick and the word where the fetch reads it (log 1). -/
def State.readyToRun (s : State) (w : Word) : State :=
  ((s.placeWord w).setRun true).setInputs (.cpuTick :: s.inputs)

end Sys2Proof.Machine
end

