-- ==== Sys2Proof/Machine/Step.lean ====
section
/-! DEFINITION. One step of the machine: the agent step that the next input permits (R30, R33). -/

namespace Sys2Proof.Machine

/-- The next input is taken and its agent makes its one indivisible step (R33; log 1). -/
def step (s : State) : Host.Outcome State Fault Refusal := runInput s.nextInput s.takeInput

/-- `s` with the table's word `w` where the next step fetches it: the two bytes at `pc`, `RUN` set and a CPU tick in front of the
inputs. It stands for the host's `load` and `start` (R203; log 1). -/
def State.withFetchWord (s : State) (nbits w : Nat) : State := s.readyToRun (tableWord nbits w)

end Sys2Proof.Machine
end

