-- ==== Sys2Proof/Safety.lean ====
section
/-! DEFINITION. The terms claims use: the machine's invariant, the fields of State, and what it is for a step to leave a field
unchanged as the machine shows it (register by register, byte by byte, pixel by pixel). -/

namespace Sys2Proof.Machine

/-- The invariant of the machine: memory is in its canonical form and the stack holds at most 16 entries (R14). -/
abbrev State.Inv (s : State) : Prop := Memory.wf s.config s.mem ∧ s.sp ≤ 16

/-- The fields of `State`. -/
inductive Field where
  | v | pc | i | stack | dt | st | key | fb | mem | cycles | run | limit | ev | config | draws | inputs | answer
  deriving DecidableEq, Repr

/-- The two states show the same in a field: every register, every key, every pixel, every byte of memory, or the value. -/
def State.sameField (s t : State) : Field → Prop
  | .v => ∀ r, t.reg r = s.reg r
  | .pc => t.pc = s.pc
  | .i => t.i = s.i
  | .stack => t.stack = s.stack
  | .dt => t.dt = s.dt
  | .st => t.st = s.st
  | .key => ∀ k, t.keyDown k = s.keyDown k
  | .fb => ∀ r c, t.pixel r c = s.pixel r c
  | .mem => ∀ a, t.memRead a = s.memRead a
  | .cycles => t.cycles = s.cycles
  | .run => t.run = s.run
  | .limit => t.limit = s.limit
  | .ev => t.ev = s.ev
  | .config => t.config = s.config
  | .draws => t.draws = s.draws
  | .inputs => t.inputs = s.inputs
  | .answer => t.answer = s.answer

/-- Every field but those listed shows the same in `t` as in `s`. -/
def State.onlyChanges (s t : State) (changed : List Field) : Prop := ∀ f, f ∉ changed → s.sameField t f

/-- Every register but those listed holds the same in `t` as in `s`. -/
def State.regsKeptBut (s t : State) (changed : List Nibble) : Prop := ∀ r, r ∉ changed → t.reg r = s.reg r

/-- The sprite of `n` rows at `I`, drawn with its corner at column `cx` and row `cy`, has a 1 on pixel `(r, c)`: the pixel lies
`dr < n` rows and `dc < 8` columns after the corner, both counted with wraparound, and bit `7 - dc` of the byte at `I + dr` is 1
(R131, R132). -/
def State.spriteCovers (s : State) (cx cy : Byte) (n : Nat) (r : Fin 32) (c : Fin 64) : Bool :=
  let dr := (r.val + 32 - cy.toNat % 32) % 32
  let dc := (c.val + 64 - cx.toNat % 64) % 64
  decide (dr < n) && decide (dc < 8) && (s.memRead (s.elementAddr dr)).getLsbD (7 - dc)

/-- The fields an instruction may change: the writers of 10_state.md (R10 to R17, R22), the `pc` table of R12, and the fresh draw of
R112. -/
def mayChange : Instr → List Field
  | .cls => [.fb]
  | .ret | .call _ => [.pc, .stack, .ev]
  | .sys _ => []
  | .jp _ | .jpV0 _ | .seImm _ _ | .sneImm _ _ | .seReg _ _ | .sneReg _ _ | .skp _ | .sknp _ => [.pc]
  | .ldImm _ _ | .addImm _ _ | .ldReg _ _ | .orReg _ _ | .andReg _ _ | .xorReg _ _ | .addReg _ _ | .subReg _ _ | .shr _ _
  | .subn _ _ | .shl _ _ | .ldVxDt _ | .load _ => [.v]
  | .rnd _ _ => [.v, .draws]
  | .ldVxK _ => [.v, .pc]
  | .drw _ _ _ => [.v, .fb]
  | .ldI _ | .addI _ | .ldF _ => [.i]
  | .ldDtVx _ => [.dt]
  | .ldStVx _ => [.st]
  | .ldB _ | .store _ => [.mem]

/-- The registers an instruction may write: the table of R10, VF among them where the instruction writes it as a flag (R11). -/
def mayWriteRegs : Instr → List Nibble
  | .ldImm x _ | .addImm x _ | .ldReg x _ | .orReg x _ | .andReg x _ | .xorReg x _ | .rnd x _ | .ldVxDt x | .ldVxK x => [x]
  | .addReg x _ | .subReg x _ | .shr x _ | .subn x _ | .shl x _ => [x, 0xF]
  | .drw _ _ _ => [0xF]
  | .load x => (List.range (x.toNat + 1)).map (BitVec.ofNat 4)
  | .cls | .ret | .sys _ | .jp _ | .call _ | .seImm _ _ | .sneImm _ _ | .seReg _ _ | .sneReg _ _ | .ldI _ | .jpV0 _ | .skp _
  | .sknp _ | .ldDtVx _ | .ldStVx _ | .addI _ | .ldF _ | .ldB _ | .store _ => []

/-- The fresh state of R25, field by field: the values the source gives, and those of the spec's decision D12 (`I`, `CYCLES`,
`RUN`, `LIMIT`, `EV`, the memory outside the font). -/
def State.isFresh (t : State) : Prop :=
  (∀ r, t.reg r = 0) ∧ t.pc = 0x0200 ∧ t.sp = 0 ∧ t.dt = 0 ∧ t.st = 0 ∧ (∀ k, t.keyDown k = false) ∧
  (∀ r c, t.pixel r c = false) ∧
  (∀ a, t.memRead a = if h : a % 4096 < 80 then t.config.fontTable[a % 4096] else 0) ∧
  t.i = 0 ∧ t.cycles = 0 ∧ t.run = false ∧ t.limit = none ∧ t.ev = []

/-- A safe step: it answers a next state. -/
def State.stepsSafely (s : State) : Prop := ∃ t, step s = .next t

end Sys2Proof.Machine
end

