-- ==== Sys2Proof/Certificates/Slice0/Obligations.lean ====
section
/-! DEFINITION. The statements for the provers, from the spec's numbered rules. `exec i s` is an instruction's rule at the point
where `pc` is already the instruction's address plus 2 (R150); `onlyChanges` and `regsKeptBut` are the frames of Safety.lean. A
clause that rests on a decision or a derivation the spec marks as its own is named in the docstring. -/

open Sys2Proof Sys2Proof.Machine

/-! ### Encoding (30_encoding.md) -/

/-- Words written out in the spec's table of decode vectors (95_test_vectors.md 2.1), unknown ones among them. -/
def Obligations.DecodeOfSpecWords : Prop :=
  decodeWord 0x00E0 = .ok .cls ∧ decodeWord 0x00EE = .ok .ret ∧ decodeWord 0x0000 = .ok (.sys 0x000) ∧
  decodeWord 0x00E1 = .ok (.sys 0x0E1) ∧ decodeWord 0x0EE0 = .ok (.sys 0xEE0) ∧ decodeWord 0x1ABC = .ok (.jp 0xABC) ∧
  decodeWord 0x3A7F = .ok (.seImm 0xA 0x7F) ∧ decodeWord 0x5AB0 = .ok (.seReg 0xA 0xB) ∧
  decodeWord 0x5AB1 = .error .unknown5 ∧ decodeWord 0x8AB6 = .ok (.shr 0xA 0xB) ∧ decodeWord 0x8AB8 = .error .unknown8 ∧
  decodeWord 0x9AB0 = .ok (.sneReg 0xA 0xB) ∧ decodeWord 0x9ABF = .error .unknown9 ∧
  decodeWord 0xD125 = .ok (.drw 1 2 5) ∧ decodeWord 0xE19E = .ok (.skp 1) ∧ decodeWord 0xE01E = .error .unknownE ∧
  decodeWord 0xF115 = .ok (.ldDtVx 1) ∧ decodeWord 0xF155 = .ok (.store 1) ∧ decodeWord 0xF165 = .ok (.load 1) ∧
  decodeWord 0xF175 = .error .unknownF

/-- Decoding the word of any well-formed instruction gives the instruction back, with every operand at every value its field
admits (R61, R63, R64). -/
def Obligations.DecodeOfEncodeIsInstruction : Prop :=
  ∀ i : Instr, i.wellFormed = true → decodeWord (encode i) = .ok i ∧ decodeBytes (encodeBytes i) = .ok (i, [])

/-- A word that decodes is the word of the instruction it decodes to, and that instruction is well-formed: no bit of a word is
dropped (R61, R63, R71). -/
def Obligations.EncodeOfDecodeIsWord : Prop :=
  ∀ (w : Word) (i : Instr), decodeWord w = .ok i → encode i = w ∧ i.wellFormed = true

/-- R65: in family 0 the two exact words are CLS and RET and every other word is SYS, which is ignored; none is unknown. -/
def Obligations.FamilyZeroWords : Prop :=
  ∀ nnn : Addr, decodeWord (0x0#4 ++ nnn) =
      .ok (if nnn = 0x0E0 then .cls else if nnn = 0x0EE then .ret else .sys nnn) ∧
    ∀ s : State, exec (.sys nnn) s = .next s

/-- R70's table (with the strict matching of the spec's decision D5): the words refused are exactly these five spaces. -/
def Obligations.UnknownWordsExactly : Prop :=
  ∀ w : Word, (∃ e, decodeWord w = .error e) ↔
    (w.toNat / 4096 = 0x5 ∧ w.toNat % 16 ≠ 0) ∨
    (w.toNat / 4096 = 0x8 ∧ w.toNat % 16 ∈ [0x8, 0x9, 0xA, 0xB, 0xC, 0xD, 0xF]) ∨
    (w.toNat / 4096 = 0x9 ∧ w.toNat % 16 ≠ 0) ∨
    (w.toNat / 4096 = 0xE ∧ w.toNat % 256 ∉ [0x9E, 0xA1]) ∨
    (w.toNat / 4096 = 0xF ∧ w.toNat % 256 ∉ [0x07, 0x0A, 0x15, 0x18, 0x1E, 0x29, 0x33, 0x55, 0x65])

/-- R64's map: a word decodes to an instruction of exactly the row whose mask and match it meets; the row of SYS excepts 0x00E0 and
0x00EE (R65). -/
def Obligations.DecodeFollowsOpcodeMap : Prop :=
  ∀ (w : Word) (i : Instr),
    (decodeWord w = .ok i → w &&& (opcodeRow i).1 = (opcodeRow i).2) ∧
    (w &&& (opcodeRow i).1 = (opcodeRow i).2 → ((∃ nnn, i = .sys nnn) → w ≠ 0x00E0 ∧ w ≠ 0x00EE) →
      ∃ j, decodeWord w = .ok j ∧ opcodeRow j = opcodeRow i)

/-- R61's masks: each field is the slice the spec writes with shift and mask, and the fields overlap as it says. -/
def Obligations.FieldsAreMaskedSlices : Prop :=
  ∀ w : Word,
    (fieldOp w).setWidth 16 = (w >>> 12) &&& 0xF ∧ (fieldX w).setWidth 16 = (w >>> 8) &&& 0xF ∧
    (fieldY w).setWidth 16 = (w >>> 4) &&& 0xF ∧ (fieldN w).setWidth 16 = w &&& 0xF ∧
    (fieldNN w).setWidth 16 = w &&& 0xFF ∧ (fieldNNN w).setWidth 16 = w &&& 0xFFF ∧
    fieldNN w = fieldY w ++ fieldN w ∧ fieldNNN w = fieldX w ++ fieldY w ++ fieldN w

/-! ### The step (45_cycle.md) -/

/-- A step runs the decoded instruction (R150, R161, R151): with the CPU's tick next and the machine Running, the step is the rule
of the instruction decoded from the two bytes at `pc`, with the input taken, `pc` advanced by 2 before it and `CYCLES` counted
after it; an unknown word appends its event; a Halted machine only takes the input. That inputs are a queue is the model's (log 1). -/
def Obligations.StepRunsDecodedInstruction : Prop :=
  ∀ s : State, s.nextInput = .cpuTick →
    (s.run = true → ∀ i, decodeWord (s.memRead s.pc.toNat ++ s.memRead (s.pc.toNat + 1)) = .ok i →
      step s = match exec i { s with inputs := s.inputs.tail, pc := s.pc + 2 } with
        | .next t => .next { t with cycles := t.cycles + 1 }
        | .fault r => .fault r
        | .refused r => .refused r) ∧
    (s.run = true → ∀ e, decodeWord (s.memRead s.pc.toNat ++ s.memRead (s.pc.toNat + 1)) = .error e →
      step s = .next { s with
        inputs := s.inputs.tail, pc := s.pc + 2, cycles := s.cycles + 1,
        ev := s.ev ++ [⟨.unknownOpcode, s.memRead s.pc.toNat ++ s.memRead (s.pc.toNat + 1), s.pc⟩] }) ∧
    (s.run = false → step s = .next { s with inputs := s.inputs.tail })

/-- The model's choice (log 1): each step takes the first pending input and runs the agent it belongs to (R30); with none pending
it is the CPU's tick. -/
def Obligations.StepTakesNextInput : Prop :=
  ∀ (s : State) (rest : List Input),
    (s.inputs = [] → step s = cycle s) ∧
    (s.inputs = .cpuTick :: rest → step s = cycle { s with inputs := rest }) ∧
    (s.inputs = .timerTick :: rest → step s = timerStep { s with inputs := rest }) ∧
    (s.inputs = .wdTick :: rest → step s = watchdogStep { s with inputs := rest }) ∧
    (∀ bytes given, s.inputs = .load bytes given :: rest → step s = hostLoad bytes given { s with inputs := rest }) ∧
    (s.inputs = .reset :: rest → step s = hostReset { s with inputs := rest }) ∧
    (∀ key p, s.inputs = .setKey key p :: rest → step s = hostSetKey key p { s with inputs := rest }) ∧
    (∀ l, s.inputs = .start l :: rest → step s = hostStart l { s with inputs := rest }) ∧
    (s.inputs = .stop :: rest → step s = hostStop { s with inputs := rest }) ∧
    (s.inputs = .snapshot :: rest → step s = hostSnapshot { s with inputs := rest })

/-- R45, with the reduction `mod 4096` of the spec's decision D2: the word fetched is big-endian, the byte at `pc mod 4096` its high
half and the byte at `(pc + 1) mod 4096` its low half. -/
def Obligations.FetchIsBigEndian : Prop :=
  ∀ s : State, s.fetchWord.toNat =
    256 * (s.memRead (s.pc.toNat % 4096)).toNat + (s.memRead ((s.pc.toNat + 1) % 4096)).toNat

/-- R161: a word that matches no pattern is a no-op past the advanced `pc`: the cycle is counted, one event is appended, nothing
else changes. -/
def Obligations.UnknownWordIsNoOp : Prop :=
  ∀ (s : State) (e : DecodeError), s.run = true → decodeWord s.fetchWord = .error e →
    ∃ t, cycle s = .next t ∧ t.pc = s.pc + 2 ∧ t.cycles = s.cycles + 1 ∧
      t.ev = s.ev ++ [⟨.unknownOpcode, s.fetchWord, s.pc⟩] ∧ s.onlyChanges t [.pc, .cycles, .ev]

/-- R152, R153: every cycle of a Running machine completes and counts exactly once, whatever the word. -/
def Obligations.EveryCycleCountsOnce : Prop :=
  ∀ s : State, s.run = true → ∃ t, cycle s = .next t ∧ t.cycles = s.cycles + 1

/-! ### Control flow (40_control_flow.md) -/

/-- R80 (no event by the spec's decision D6): SYS changes nothing; the cycle only advances `pc` and counts. -/
def Obligations.SysOnlyAdvances : Prop :=
  ∀ (nnn : Addr) (s : State), exec (.sys nnn) s = .next s ∧
    (s.run = true → s.fetchWord = 0x0#4 ++ nnn → nnn ≠ 0x0E0 → nnn ≠ 0x0EE →
      cycle s = .next { s with pc := s.pc + 2, cycles := s.cycles + 1 })

/-- R82, R88: JP loads the zero-extended address; JP V0 loads V0 plus the address, at most 0x10FE and not reduced to 12 bits.
Nothing else changes. -/
def Obligations.JumpTargets : Prop :=
  ∀ (nnn : Addr) (s : State),
    (decodeWord (0x1#4 ++ nnn) = .ok (.jp nnn) ∧
      ∃ t, exec (.jp nnn) s = .next t ∧ t.pc.toNat = nnn.toNat ∧ s.onlyChanges t [.pc]) ∧
    (decodeWord (0xB#4 ++ nnn) = .ok (.jpV0 nnn) ∧
      ∃ t, exec (.jpV0 nnn) s = .next t ∧ t.pc.toNat = (s.reg 0).toNat + nnn.toNat ∧ s.onlyChanges t [.pc])

/-- R83: with fewer than 16 entries CALL pushes the advanced `pc` as the newest entry and jumps; with 16 it appends the event with
its word and the address it was fetched from and does nothing else. -/
def Obligations.CallPushesReturnAddress : Prop :=
  ∀ (nnn : Addr) (s : State), decodeWord (0x2#4 ++ nnn) = .ok (.call nnn) ∧
    (s.sp < 16 → ∃ t, exec (.call nnn) s = .next t ∧ t.stack = s.stack ++ [s.pc] ∧ t.sp = s.sp + 1 ∧
      t.pc.toNat = nnn.toNat ∧ s.onlyChanges t [.stack, .pc]) ∧
    (s.sp = 16 → ∃ t, exec (.call nnn) s = .next t ∧ t.ev = s.ev ++ [⟨.stackOverflow, 0x2#4 ++ nnn, s.pc - 2⟩] ∧
      s.onlyChanges t [.ev])

/-- R81: RET takes the newest entry into `pc`; with an empty stack it appends the event and does nothing else. -/
def Obligations.ReturnPopsNewest : Prop :=
  decodeWord 0x00EE = .ok .ret ∧
  (∀ (s : State) (older : List Word) (newest : Word), s.stack = older ++ [newest] →
    ∃ t, exec .ret s = .next t ∧ t.stack = older ∧ t.pc = newest ∧ s.onlyChanges t [.stack, .pc]) ∧
  (∀ s : State, s.sp = 0 → ∃ t, exec .ret s = .next t ∧ t.ev = s.ev ++ [⟨.stackUnderflow, 0x00EE, s.pc - 2⟩] ∧
    s.onlyChanges t [.ev])

/-- The source's stack round trip (S4): a RET executed with the stack a CALL left resumes after the call, with the depth of
before. -/
def Obligations.CallThenReturnComesBack : Prop :=
  ∀ (nnn : Addr) (s : State), s.sp < 16 → ∃ t, exec (.call nnn) s = .next t ∧
    ∀ u : State, u.stack = t.stack → ∃ v, exec .ret u = .next v ∧ v.pc = s.pc ∧ v.sp = s.sp ∧ v.stack = s.stack

/-- R84 to R87: each conditional skip adds 2 to the advanced `pc` exactly when its comparison of unsigned bytes holds, and changes
nothing else. -/
def Obligations.SkipsFollowTheirComparison : Prop :=
  ∀ (x y : Nibble) (nn : Byte) (s : State),
    (decodeWord (0x3#4 ++ x ++ nn) = .ok (.seImm x nn) ∧ ∃ t, exec (.seImm x nn) s = .next t ∧
      t.pc = (if (s.reg x).toNat = nn.toNat then s.pc + 2 else s.pc) ∧ s.onlyChanges t [.pc]) ∧
    (decodeWord (0x4#4 ++ x ++ nn) = .ok (.sneImm x nn) ∧ ∃ t, exec (.sneImm x nn) s = .next t ∧
      t.pc = (if (s.reg x).toNat = nn.toNat then s.pc else s.pc + 2) ∧ s.onlyChanges t [.pc]) ∧
    (decodeWord (0x5#4 ++ x ++ y ++ 0x0#4) = .ok (.seReg x y) ∧ ∃ t, exec (.seReg x y) s = .next t ∧
      t.pc = (if (s.reg x).toNat = (s.reg y).toNat then s.pc + 2 else s.pc) ∧ s.onlyChanges t [.pc]) ∧
    (decodeWord (0x9#4 ++ x ++ y ++ 0x0#4) = .ok (.sneReg x y) ∧ ∃ t, exec (.sneReg x y) s = .next t ∧
      t.pc = (if (s.reg x).toNat = (s.reg y).toNat then s.pc else s.pc + 2) ∧ s.onlyChanges t [.pc])

/-! ### Arithmetic and logic (41_alu.md) -/

/-- R101, R102, R103: LD Vx, nn, ADD Vx, nn (modulo 256, carry discarded) and LD Vx, Vy write V[x] and nothing else: VF changes only
as the destination, and there is no event. -/
def Obligations.LoadAndAddImmediate : Prop :=
  ∀ (x y : Nibble) (nn : Byte) (s : State),
    (decodeWord (0x6#4 ++ x ++ nn) = .ok (.ldImm x nn) ∧ ∃ t, exec (.ldImm x nn) s = .next t ∧
      t.reg x = nn ∧ s.regsKeptBut t [x] ∧ s.onlyChanges t [.v]) ∧
    (decodeWord (0x7#4 ++ x ++ nn) = .ok (.addImm x nn) ∧ ∃ t, exec (.addImm x nn) s = .next t ∧
      (t.reg x).toNat = ((s.reg x).toNat + nn.toNat) % 256 ∧ s.regsKeptBut t [x] ∧ s.onlyChanges t [.v]) ∧
    (decodeWord (0x8#4 ++ x ++ y ++ 0x0#4) = .ok (.ldReg x y) ∧ ∃ t, exec (.ldReg x y) s = .next t ∧
      t.reg x = s.reg y ∧ s.regsKeptBut t [x] ∧ s.onlyChanges t [.v])

/-- R104, R105, R106, bit by bit; that VF is left alone (unless it is the destination) is the spec's decision D24. -/
def Obligations.LogicOperationsAreBitwise : Prop :=
  ∀ (x y : Nibble) (s : State),
    (∃ t, exec (.orReg x y) s = .next t ∧ s.regsKeptBut t [x] ∧ s.onlyChanges t [.v] ∧
      ∀ k < 8, (t.reg x).getLsbD k = ((s.reg x).getLsbD k || (s.reg y).getLsbD k)) ∧
    (∃ t, exec (.andReg x y) s = .next t ∧ s.regsKeptBut t [x] ∧ s.onlyChanges t [.v] ∧
      ∀ k < 8, (t.reg x).getLsbD k = ((s.reg x).getLsbD k && (s.reg y).getLsbD k)) ∧
    (∃ t, exec (.xorReg x y) s = .next t ∧ s.regsKeptBut t [x] ∧ s.onlyChanges t [.v] ∧
      ∀ k < 8, (t.reg x).getLsbD k = ((s.reg x).getLsbD k ^^ (s.reg y).getLsbD k))

/-- R107: ADD Vx, Vy writes the sum modulo 256 and then the carry to VF, both from the old values; with x = 0xF the carry is what
stays. -/
def Obligations.AddSetsCarry : Prop :=
  ∀ (x y : Nibble) (s : State), decodeWord (0x8#4 ++ x ++ y ++ 0x4#4) = .ok (.addReg x y) ∧
    ∃ t, exec (.addReg x y) s = .next t ∧
      t.reg 0xF = (if (s.reg x).toNat + (s.reg y).toNat > 255 then 1 else 0) ∧
      (x ≠ 0xF → (t.reg x).toNat = ((s.reg x).toNat + (s.reg y).toNat) % 256) ∧
      s.regsKeptBut t [x, 0xF] ∧ s.onlyChanges t [.v]

/-- R108, R110: SUB and SUBN write the difference modulo 256 and then VF, 1 exactly when the minuend is strictly greater; with
x = 0xF the flag is what stays. -/
def Obligations.SubtractionsSetNotBorrow : Prop :=
  ∀ (x y : Nibble) (s : State),
    (decodeWord (0x8#4 ++ x ++ y ++ 0x5#4) = .ok (.subReg x y) ∧ ∃ t, exec (.subReg x y) s = .next t ∧
      t.reg 0xF = (if (s.reg x).toNat > (s.reg y).toNat then 1 else 0) ∧
      (x ≠ 0xF → ((t.reg x).toNat : Int) = ((s.reg x).toNat - (s.reg y).toNat : Int) % 256) ∧
      s.regsKeptBut t [x, 0xF] ∧ s.onlyChanges t [.v]) ∧
    (decodeWord (0x8#4 ++ x ++ y ++ 0x7#4) = .ok (.subn x y) ∧ ∃ t, exec (.subn x y) s = .next t ∧
      t.reg 0xF = (if (s.reg y).toNat > (s.reg x).toNat then 1 else 0) ∧
      (x ≠ 0xF → ((t.reg x).toNat : Int) = ((s.reg y).toNat - (s.reg x).toNat : Int) % 256) ∧
      s.regsKeptBut t [x, 0xF] ∧ s.onlyChanges t [.v])

/-- R109, R111 under either value of the open parameter `SHIFT_SRC` (the spec's decision D4): the operand is V[x] or V[y] as the
parameter says; V[x] is half of it or twice it modulo 256, VF the bit shifted out. -/
def Obligations.ShiftsUnderBothSources : Prop :=
  ∀ (x y : Nibble) (s : State) (operand : Byte),
    operand = (match s.config.shiftSrc with | .x => s.reg x | .y => s.reg y) →
    (∃ t, exec (.shr x y) s = .next t ∧ (t.reg 0xF).toNat = operand.toNat % 2 ∧
      (x ≠ 0xF → (t.reg x).toNat = operand.toNat / 2) ∧ s.regsKeptBut t [x, 0xF] ∧ s.onlyChanges t [.v]) ∧
    (∃ t, exec (.shl x y) s = .next t ∧ (t.reg 0xF).toNat = operand.toNat / 128 ∧
      (x ≠ 0xF → (t.reg x).toNat = 2 * operand.toNat % 256) ∧ s.regsKeptBut t [x, 0xF] ∧ s.onlyChanges t [.v])

/-- R11 (a): after an instruction that writes VF as a flag, VF is 0 or 1, whatever the registers, VF as an operand included. -/
def Obligations.FlagIsZeroOrOne : Prop :=
  ∀ (x y n : Nibble) (s : State) (i : Instr),
    i ∈ [Instr.addReg x y, .subReg x y, .shr x y, .subn x y, .shl x y, .drw x y n] →
    ∃ t, exec i s = .next t ∧ (t.reg 0xF = 0 ∨ t.reg 0xF = 1)

/-- R112: RND writes the byte drawn AND the mask, whatever is drawn, so every bit outside the mask is 0; the draw is used up, and
nothing else changes. That the draw is a free value of the model's own counter is the model's choice (log 2, D11). -/
def Obligations.RandomIsMasked : Prop :=
  ∀ (x : Nibble) (nn : Byte) (s : State), decodeWord (0xC#4 ++ x ++ nn) = .ok (.rnd x nn) ∧
    ∃ t, exec (.rnd x nn) s = .next t ∧ t.reg x = Config.randomByte s.draws &&& nn ∧ s.draws < t.draws ∧
      (∀ k, nn.getLsbD k = false → (t.reg x).getLsbD k = false) ∧
      s.regsKeptBut t [x] ∧ s.onlyChanges t [.v, .draws]

/-! ### Index register and memory (42_index_and_memory.md) -/

/-- R120, R122: LD I loads the zero-extended address; LD F loads five times the whole of V[x]. Nothing else changes. -/
def Obligations.IndexLoads : Prop :=
  ∀ (nnn : Addr) (x : Nibble) (s : State),
    (decodeWord (0xA#4 ++ nnn) = .ok (.ldI nnn) ∧ ∃ t, exec (.ldI nnn) s = .next t ∧
      t.i.toNat = nnn.toNat ∧ s.onlyChanges t [.i]) ∧
    (decodeWord (0xF#4 ++ x ++ 0x29#8) = .ok (.ldF x) ∧ ∃ t, exec (.ldF x) s = .next t ∧
      t.i.toNat = 5 * (s.reg x).toNat ∧ s.onlyChanges t [.i])

/-- R121 (that VF is not written is the spec's decision D24): ADD I reduces modulo 65536, not to 12 bits, and changes `I` alone. -/
def Obligations.AddIndexWraps : Prop :=
  ∀ (x : Nibble) (s : State), ∃ t, exec (.addI x) s = .next t ∧
    t.i.toNat = (s.i.toNat + (s.reg x).toNat) % 65536 ∧ s.onlyChanges t [.i]

/-- R13: only `Fx1E` can take `I` above 0x0FFF. That `Fx55` and `Fx65` leave `I` alone is the spec's decision D24 (log 11). -/
def Obligations.IndexAboveMemoryOnlyByAdd : Prop :=
  ∀ (i : Instr) (s t : State), exec i s = .next t → s.i.toNat ≤ 0x0FFF → 0x0FFF < t.i.toNat → ∃ x, i = .addI x

/-- R123: LD B stores the three decimal digits of V[x], hundreds, tens and ones, at `I`, `I + 1`, `I + 2`, each address reduced
`mod 4096`; every other byte, `I` and everything else is unchanged. -/
def Obligations.DecimalDigitsStored : Prop :=
  ∀ (x : Nibble) (s : State), decodeWord (0xF#4 ++ x ++ 0x33#8) = .ok (.ldB x) ∧
    ∃ t, exec (.ldB x) s = .next t ∧
      (t.memRead (s.elementAddr 0)).toNat = (s.reg x).toNat / 100 ∧
      (t.memRead (s.elementAddr 1)).toNat = (s.reg x).toNat / 10 % 10 ∧
      (t.memRead (s.elementAddr 2)).toNat = (s.reg x).toNat % 10 ∧
      (∀ a, a < 4096 → (∀ k < 3, a ≠ s.elementAddr k) → t.memRead a = s.memRead a) ∧
      s.onlyChanges t [.mem]

/-- R124 (register `k` at `I + k` is general knowledge the spec adopts, G4; that `I` is unchanged is its decision D24; the
addresses reduce `mod 4096` by D2): LD [I], Vx stores V[0] to V[x]; every other byte and everything else is unchanged. -/
def Obligations.RegistersStored : Prop :=
  ∀ (x : Nibble) (s : State), ∃ t, exec (.store x) s = .next t ∧
    (∀ r : Nibble, r ≤ x → t.memRead (s.elementAddr r.toNat) = s.reg r) ∧
    (∀ a, a < 4096 → (∀ k ≤ x.toNat, a ≠ s.elementAddr k) → t.memRead a = s.memRead a) ∧
    s.onlyChanges t [.mem]

/-- R125 (pairing by G4, `I` unchanged by D24, addresses by D2): LD Vx, [I] loads V[0] to V[x]; the registers above `x`, memory and
everything else are unchanged. -/
def Obligations.RegistersLoaded : Prop :=
  ∀ (x : Nibble) (s : State), ∃ t, exec (.load x) s = .next t ∧
    (∀ r : Nibble, r ≤ x → t.reg r = s.memRead (s.elementAddr r.toNat)) ∧
    (∀ r : Nibble, x < r → t.reg r = s.reg r) ∧ s.onlyChanges t [.v]

/-- R124 with R125: a load of the same registers after a store brings back what was stored, whatever the registers hold in
between (pairing by G4). -/
def Obligations.StoreThenLoadRestores : Prop :=
  ∀ (x : Nibble) (s : State), ∃ t, exec (.store x) s = .next t ∧
    ∀ u : State, (∀ a, u.memRead a = t.memRead a) → u.i = s.i →
      ∃ v, exec (.load x) u = .next v ∧ ∀ r : Nibble, r ≤ x → v.reg r = s.reg r

/-! ### Display (43_display.md) -/

/-- R130 (that VF is not written is the spec's decision D24): CLS clears every pixel and changes nothing else. -/
def Obligations.ScreenCleared : Prop :=
  ∀ s : State, ∃ t, exec .cls s = .next t ∧ (∀ r c, t.pixel r c = false) ∧ s.onlyChanges t [.fb]

/-- R131, R132 (coordinates latched before VF is cleared, D8; bit 7 leftmost, G2; row addresses mod 4096, D2): DRW flips exactly
the pixels the sprite covers, with wraparound per pixel; VF is 1 exactly when a covered pixel was 1; no other register and nothing
else changes. -/
def Obligations.SpriteDrawnExactly : Prop :=
  ∀ (x y n : Nibble) (s : State), ∃ t, exec (.drw x y n) s = .next t ∧
    (∀ r c, t.pixel r c = (s.pixel r c ^^ s.spriteCovers (s.reg x) (s.reg y) n.toNat r c)) ∧
    ((∃ r c, s.spriteCovers (s.reg x) (s.reg y) n.toNat r c = true ∧ s.pixel r c = true) → t.reg 0xF = 1) ∧
    ((∀ r c, s.spriteCovers (s.reg x) (s.reg y) n.toNat r c = true → s.pixel r c = false) → t.reg 0xF = 0) ∧
    s.regsKeptBut t [0xF] ∧ s.onlyChanges t [.v, .fb]

/-- The source's collision property (S6): drawing the same sprite twice restores the framebuffer; on a blank one the first draw
gives VF = 0, and the second VF = 1 exactly when the sprite set a pixel. -/
def Obligations.SpriteDrawnTwiceRestores : Prop :=
  ∀ (x y n : Nibble) (s : State), x ≠ 0xF → y ≠ 0xF →
    ∃ t, exec (.drw x y n) s = .next t ∧ ∃ u, exec (.drw x y n) t = .next u ∧
      (∀ r c, u.pixel r c = s.pixel r c) ∧
      ((∀ r c, s.pixel r c = false) → t.reg 0xF = 0 ∧
        ((∃ r c, t.pixel r c = true) → u.reg 0xF = 1) ∧ ((∀ r c, t.pixel r c = false) → u.reg 0xF = 0))

/-! ### Keypad and timers (44_keypad_and_timers.md) -/

/-- R140, R141 (the key is V[x] modulo 16 by the spec's decision D7): SKP skips exactly when the key is pressed, SKNP exactly when
it is not; nothing but `pc` changes. -/
def Obligations.KeySkips : Prop :=
  ∀ (x k : Nibble) (s : State), k.toNat = (s.reg x).toNat % 16 →
    (∃ t, exec (.skp x) s = .next t ∧ t.pc = (if s.keyDown k then s.pc + 2 else s.pc) ∧ s.onlyChanges t [.pc]) ∧
    (∃ t, exec (.sknp x) s = .next t ∧ t.pc = (if s.keyDown k then s.pc else s.pc + 2) ∧ s.onlyChanges t [.pc])

/-- R142: LD Vx, K writes the least pressed key and goes on; with no key pressed it moves `pc` back by 2, so that the same word is
fetched again. It writes V[x] or `pc`, never both, and nothing else. -/
def Obligations.KeyWaitTakesLeastKey : Prop :=
  ∀ (x : Nibble) (s : State), decodeWord (0xF#4 ++ x ++ 0x0A#8) = .ok (.ldVxK x) ∧
    (∀ k : Nibble, s.keyDown k = true → (∀ j : Nibble, j < k → s.keyDown j = false) →
      ∃ t, exec (.ldVxK x) s = .next t ∧ (t.reg x).toNat = k.toNat ∧ s.regsKeptBut t [x] ∧ s.onlyChanges t [.v]) ∧
    ((∀ k, s.keyDown k = false) →
      ∃ t, exec (.ldVxK x) s = .next t ∧ t.pc = s.pc - 2 ∧ s.onlyChanges t [.pc])

/-- R143 (that it is the delay timer is general knowledge the spec adopts, G3): LD Vx, DT. -/
def Obligations.DelayTimerRead : Prop :=
  ∀ (x : Nibble) (s : State), ∃ t, exec (.ldVxDt x) s = .next t ∧
    t.reg x = s.dt ∧ s.regsKeptBut t [x] ∧ s.onlyChanges t [.v]

/-- R144, R145: LD DT, Vx and LD ST, Vx replace the whole timer and change nothing else. -/
def Obligations.TimersWritten : Prop :=
  ∀ (x : Nibble) (s : State),
    (decodeWord (0xF#4 ++ x ++ 0x15#8) = .ok (.ldDtVx x) ∧ ∃ t, exec (.ldDtVx x) s = .next t ∧
      t.dt = s.reg x ∧ s.onlyChanges t [.dt]) ∧
    (decodeWord (0xF#4 ++ x ++ 0x18#8) = .ok (.ldStVx x) ∧ ∃ t, exec (.ldStVx x) s = .next t ∧
      t.st = s.reg x ∧ s.onlyChanges t [.st])

/-- R15: no instruction reads ST: with another value in it, every instruction but the one that writes it does the same and leaves
that value in place. That `Fx07` reads the delay timer is general knowledge the spec adopts (G3, log 12). -/
def Obligations.SoundTimerNeverRead : Prop :=
  ∀ (i : Instr) (s t : State) (b : Byte), (∀ x, i ≠ .ldStVx x) → exec i s = .next t →
    exec i { s with st := b } = .next { t with st := b }

/-! ### The other agents and the host (60_exceptions.md, 20_memory.md, 70_reset_and_hazards.md) -/

/-- R171 (both decrements in one step by the spec's decision D15): a timer step takes 1 from each timer above 0 and changes nothing
else. -/
def Obligations.TimerStepCountsDown : Prop :=
  ∀ s : State, s.run = true → ∃ t, timerStep s = .next t ∧ t.dt.toNat = s.dt.toNat - 1 ∧ t.st.toNat = s.st.toNat - 1 ∧
    s.onlyChanges t [.dt, .st]

/-- The source's timer property (S8): after `k` timer steps each timer is `k` lower, or 0 and no lower. That the ticks are a queue of
inputs is the model's choice (log 1), that one step decrements both timers the spec's decision D15 (log 11). -/
def Obligations.TimersReachZeroAndStay : Prop :=
  ∀ (k : Nat) (s : State), s.run = true → s.inputs = List.replicate k .timerTick →
    ∃ t : State, Host.Core.run Sys2Proof.core k s = .next t ∧ t.dt.toNat = s.dt.toNat - k ∧ t.st.toNat = s.st.toNat - k

/-- R180 (any step at which the limit is exceeded may act, D16; strictly exceeded, C2): the watchdog clears RUN exactly when RUN = 1,
a limit is present and CYCLES > LIMIT, and does nothing otherwise. -/
def Obligations.WatchdogHaltsPastLimit : Prop :=
  ∀ s : State,
    (s.run = true → ∀ l, s.limit = some l → l < s.cycles → watchdogStep s = .next { s with run := false }) ∧
    (∀ l, s.limit = some l → s.cycles ≤ l → watchdogStep s = .next s) ∧
    (s.limit = none → watchdogStep s = .next s) ∧ (s.run = false → watchdogStep s = .next s)

/-- R181: while Halted no cycle, timer step or watchdog step happens and every field keeps its value; every command and the
snapshot read are admitted; nothing but `start` wakes the machine. -/
def Obligations.HaltedMachineHolds : Prop :=
  ∀ s : State, s.run = false →
    cycle s = .next s ∧ timerStep s = .next s ∧ watchdogStep s = .next s ∧
    ∀ input, ∃ t, runInput input s = .next t ∧ (t.run = true ↔ ∃ l, input = .start l)

/-- R48: a load that fits, at the origin given or at 0x200 if none is, copies the bytes verbatim, byte `k` to `origin + k`, answers
ok and changes nothing else. -/
def Obligations.LoadCopiesVerbatim : Prop :=
  ∀ (bytes : List Byte) (given : Option Nat) (origin : Nat) (s : State), origin = given.getD 0x200 → s.run = false →
    origin ≤ 4096 → bytes.length ≤ 4096 - origin →
    ∃ t, hostLoad bytes given s = .next t ∧ t.answer = some .ok ∧
      (∀ (k : Nat) (h : k < bytes.length), t.memRead (origin + k) = bytes[k]) ∧
      (∀ a < 4096, a < origin ∨ origin + bytes.length ≤ a → t.memRead a = s.memRead a) ∧
      s.onlyChanges t [.mem, .answer]

/-- R49 (the inequality over the integers, so that an origin above 4096 always fails, is the spec's derivation): a load that does
not fit answers RomTooLarge and writes no byte. -/
def Obligations.LoadTooLargeWritesNothing : Prop :=
  ∀ (bytes : List Byte) (given : Option Nat) (origin : Nat) (s : State), origin = given.getD 0x200 → s.run = false →
    (bytes.length : Int) > 4096 - (origin : Int) →
    ∃ t, hostLoad bytes given s = .next t ∧ t.answer = some .romTooLarge ∧ s.onlyChanges t [.answer]

/-- R175: set_key latches the one key named, at any time, and answers ok; a key above 15 changes no key and answers
KeyOutOfRange. -/
def Obligations.SetKeyLatchesOneKey : Prop :=
  ∀ (key : Nat) (pressed : Bool) (s : State),
    (key ≤ 15 → ∃ t, hostSetKey key pressed s = .next t ∧ t.answer = some .ok ∧
      (∀ k : Nibble, t.keyDown k = if k.toNat = key then pressed else s.keyDown k) ∧ s.onlyChanges t [.key, .answer]) ∧
    (15 < key → ∃ t, hostSetKey key pressed s = .next t ∧ t.answer = some .keyOutOfRange ∧ s.onlyChanges t [.answer])

/-- R178, R179 (`start` changes only RUN and LIMIT, D20; `stop` while Halted does nothing, D17): `start` on a Halted machine sets
LIMIT and RUN; `stop` clears RUN and keeps LIMIT. No rule gives either an answer: their `ok` is the model's choice (log 4). -/
def Obligations.StartAndStop : Prop :=
  ∀ s : State,
    (s.run = false → ∀ l, ∃ t, hostStart l s = .next t ∧ t.run = true ∧ t.limit = l ∧ t.answer = some .ok ∧
      s.onlyChanges t [.run, .limit, .answer]) ∧
    (∃ t, hostStop s = .next t ∧ t.run = false ∧ t.answer = some .ok ∧ s.onlyChanges t [.run, .answer])

/-- R25, R200 (the values of `I`, CYCLES, RUN, LIMIT, EV and of memory outside the font are the spec's decision D12): power-on and
every reset of a Halted machine give the fresh state, with the machine's own parameters (R24). That the answer stands in a field of
State is the model's choice (log 4). -/
def Obligations.ResetGivesFreshState : Prop :=
  State.reset.isFresh ∧
  ∀ s : State, s.run = false → ∃ t, hostReset s = .next t ∧ t.isFresh ∧ t.config = s.config ∧ t.answer = some .ok

/-- R202: calling reset twice in a row gives the state of calling it once. -/
def Obligations.ResetTwiceIsResetOnce : Prop :=
  ∀ s : State, s.run = false → ∃ t, hostReset s = .next t ∧ hostReset t = .next t

/-- R201, R178 (the spec's decision D17, U8; log 3): `load`, `reset` and `start` have no meaning while Running and are refused, each
by its own name. -/
def Obligations.RunningMachineRefusesCommands : Prop :=
  ∀ (bytes : List Byte) (given l : Option Nat) (s : State), s.run = true →
    hostLoad bytes given s = .refused .loadWhileRunning ∧ hostReset s = .refused .resetWhileRunning ∧
    hostStart l s = .refused .startWhileRunning

/-- R182: a snapshot read shows every field of the accessor list and changes nothing but the answer shown to the host. That one read
shows one instant, of a Running machine too, is the spec's decision D21 (log 8; U9); that it stands in the field `answer` is the
model's choice (log 4). -/
def Obligations.SnapshotShowsAndChangesNothing : Prop :=
  ∀ s : State, ∃ (t : State) (p : Snapshot), hostSnapshot s = .next t ∧ t.answer = some (.snapshot p) ∧
    s.onlyChanges t [.answer] ∧
    (∀ (r : Fin 32) (c : Fin 64), p.fb[r].getLsbD c = s.pixel r c) ∧ (∀ r : Nibble, p.v[r.toNat]'r.isLt = s.reg r) ∧
    p.pc = s.pc ∧ p.i = s.i ∧ p.stack = s.stack ∧ p.sp = s.stack.length ∧ p.dt = s.dt ∧ p.st = s.st ∧
    p.cycles = s.cycles ∧ p.run = s.run

/-! ### The whole machine -/

/-- The invariant holds after power-on and after every reset. -/
def Obligations.FreshStateHasInvariant : Prop :=
  State.reset.Inv ∧ ∀ s t : State, hostReset s = .next t → t.Inv

/-- Every step of every agent keeps the invariant: memory stays in its canonical form (addresses rising and below 4096) and the
stack never holds more than 16 entries (R14, R43). -/
def Obligations.StepKeepsInvariant : Prop :=
  ∀ s t : State, s.Inv → step s = .next t → t.Inv

/-- R24: the parameters are fixed for the life of a machine: no step of any agent, a reset included, changes them. -/
def Obligations.StepKeepsParameters : Prop :=
  ∀ s t : State, step s = .next t → t.config = s.config

/-- The frame of every instruction (R10 to R17, R22, R34): each answers a next state and changes no field and no register but those
the spec's tables give it; in particular none touches KEY, RUN, LIMIT, CYCLES or the parameters. Where the tables leave VF or `I`
alone by silence, that is the spec's decision D24. -/
def Obligations.FrameOfEveryInstruction : Prop :=
  ∀ (i : Instr) (s : State), ∃ t, exec i s = .next t ∧ s.onlyChanges t (mayChange i) ∧ s.regsKeptBut t (mayWriteRegs i)

/-- R154: no program ends its own run: a cycle leaves RUN, LIMIT and the keys as they are. -/
def Obligations.ProgramCannotStopItself : Prop :=
  ∀ s : State, s.run = true → ∃ t, cycle s = .next t ∧ t.run = true ∧ t.limit = s.limit ∧ ∀ k, t.keyDown k = s.keyDown k

/-- R160, R163, R167 (the record's layout is the spec's decision D18): a cycle appends at most one event, naming the word fetched and
its address, and only for the three anomalies of R160. -/
def Obligations.CycleAppendsAtMostOneEvent : Prop :=
  ∀ s t : State, s.run = true → cycle s = .next t → ∃ evs : List Event, t.ev = s.ev ++ evs ∧ evs.length ≤ 1 ∧
    ∀ e ∈ evs, e.word = s.fetchWord ∧ e.addr = s.pc ∧
      (e.kind = .unknownOpcode → ∃ err, decodeWord s.fetchWord = .error err) ∧
      (e.kind = .stackOverflow → (∃ nnn, decodeWord s.fetchWord = .ok (.call nnn)) ∧ 16 ≤ s.sp) ∧
      (e.kind = .stackUnderflow → decodeWord s.fetchWord = .ok .ret ∧ s.sp = 0)

/-- R22: the event channel never changes what a cycle does: with other events before it, the cycle does the same and appends the
same. -/
def Obligations.EventsNeverInfluence : Prop :=
  ∀ (s t : State) (before : List Event), cycle s = .next t →
    cycle { s with ev := before ++ s.ev } = .next { t with ev := before ++ t.ev }

/-- R154: a jump to itself changes nothing but CYCLES, however often it runs. -/
def Obligations.SelfJumpStaysPut : Prop :=
  ∀ (s : State) (nnn : Addr), s.run = true → s.pc.toNat = nnn.toNat → s.fetchWord = 0x1#4 ++ nnn →
    cycle s = .next { s with cycles := s.cycles + 1 }
end

