-- ==== Sys2Proof/Laws/Decode.lean ====
section
/-! SUPPORT. The fields of R61 and the three layouts of the encoder undo each other. -/

namespace Sys2Proof

theorem fieldOp_encodeXNN (op x : Nibble) (nn : Byte) : fieldOp (encodeXNN op x nn) = op := by
  show BitVec.extractLsb' 12 4 (op ++ x ++ nn : BitVec (4 + 4 + 8)) = op
  ext k hk
  simp only [BitVec.getElem_extractLsb', BitVec.getLsbD_append]
  rw [if_neg (by omega), if_neg (by omega)]
  simp [show 12 + k - 8 - 4 = k by omega, BitVec.getLsbD_eq_getElem, hk]

theorem fieldX_encodeXNN (op x : Nibble) (nn : Byte) : fieldX (encodeXNN op x nn) = x := by
  show BitVec.extractLsb' 8 4 (op ++ x ++ nn : BitVec (4 + 4 + 8)) = x
  ext k hk
  simp only [BitVec.getElem_extractLsb', BitVec.getLsbD_append]
  rw [if_neg (by omega), if_pos (by omega)]
  simp [show 8 + k - 8 = k by omega, BitVec.getLsbD_eq_getElem, hk]

theorem fieldNN_encodeXNN (op x : Nibble) (nn : Byte) : fieldNN (encodeXNN op x nn) = nn := by
  show BitVec.extractLsb' 0 8 (op ++ x ++ nn : BitVec (4 + 4 + 8)) = nn
  ext k hk
  simp only [BitVec.getElem_extractLsb', BitVec.getLsbD_append]
  rw [if_pos (by omega)]
  simp [hk]

theorem fieldOp_encodeXYN (op x y n : Nibble) : fieldOp (encodeXYN op x y n) = op := by
  show BitVec.extractLsb' 12 4 (op ++ x ++ y ++ n : BitVec (4 + 4 + 4 + 4)) = op
  ext k hk
  simp only [BitVec.getElem_extractLsb', BitVec.getLsbD_append]
  rw [if_neg (by omega), if_neg (by omega), if_neg (by omega)]
  simp [show 12 + k - 4 - 4 - 4 = k by omega, BitVec.getLsbD_eq_getElem, hk]

theorem fieldX_encodeXYN (op x y n : Nibble) : fieldX (encodeXYN op x y n) = x := by
  show BitVec.extractLsb' 8 4 (op ++ x ++ y ++ n : BitVec (4 + 4 + 4 + 4)) = x
  ext k hk
  simp only [BitVec.getElem_extractLsb', BitVec.getLsbD_append]
  rw [if_neg (by omega), if_neg (by omega), if_pos (by omega)]
  simp [show 8 + k - 4 - 4 = k by omega, BitVec.getLsbD_eq_getElem, hk]

theorem fieldY_encodeXYN (op x y n : Nibble) : fieldY (encodeXYN op x y n) = y := by
  show BitVec.extractLsb' 4 4 (op ++ x ++ y ++ n : BitVec (4 + 4 + 4 + 4)) = y
  ext k hk
  simp only [BitVec.getElem_extractLsb', BitVec.getLsbD_append]
  rw [if_neg (by omega), if_pos (by omega)]
  simp [show 4 + k - 4 = k by omega, BitVec.getLsbD_eq_getElem, hk]

theorem fieldN_encodeXYN (op x y n : Nibble) : fieldN (encodeXYN op x y n) = n := by
  show BitVec.extractLsb' 0 4 (op ++ x ++ y ++ n : BitVec (4 + 4 + 4 + 4)) = n
  ext k hk
  simp only [BitVec.getElem_extractLsb', BitVec.getLsbD_append]
  rw [if_pos (by omega)]
  simp [hk]

theorem fieldOp_encodeNNN (op : Nibble) (nnn : Addr) : fieldOp (encodeNNN op nnn) = op := by
  show BitVec.extractLsb' 12 4 (op ++ nnn : BitVec (4 + 12)) = op
  ext k hk
  simp only [BitVec.getElem_extractLsb', BitVec.getLsbD_append]
  rw [if_neg (by omega)]
  simp [show 12 + k - 12 = k by omega, BitVec.getLsbD_eq_getElem, hk]

theorem fieldNNN_encodeNNN (op : Nibble) (nnn : Addr) : fieldNNN (encodeNNN op nnn) = nnn := by
  show BitVec.extractLsb' 0 12 (op ++ nnn : BitVec (4 + 12)) = nnn
  ext k hk
  simp only [BitVec.getElem_extractLsb', BitVec.getLsbD_append]
  rw [if_pos (by omega)]
  simp [hk]

theorem encodeNNN_fields (w : Word) : encodeNNN (fieldOp w) (fieldNNN w) = w := by
  show (fieldOp w ++ fieldNNN w : BitVec (4 + 12)) = w
  apply BitVec.eq_of_getLsbD_eq
  intro k hk
  simp only [BitVec.getLsbD_append, fieldOp, fieldNNN, BitVec.getLsbD_extractLsb']
  split
  · simp [*]
  · simp [show k - 12 < 4 by omega, show 12 + (k - 12) = k by omega, BitVec.getLsbD_eq_getElem, hk]

theorem encodeXNN_fields (w : Word) : encodeXNN (fieldOp w) (fieldX w) (fieldNN w) = w := by
  show (fieldOp w ++ fieldX w ++ fieldNN w : BitVec (4 + 4 + 8)) = w
  apply BitVec.eq_of_getLsbD_eq
  intro k hk
  simp only [BitVec.getLsbD_append, fieldOp, fieldX, fieldNN, BitVec.getLsbD_extractLsb']
  split
  · simp [*]
  · split
    · simp [*, show 8 + (k - 8) = k by omega, BitVec.getLsbD_eq_getElem]
    · simp [show k - 8 - 4 < 4 by omega, show 12 + (k - 8 - 4) = k by omega, BitVec.getLsbD_eq_getElem, hk]

theorem encodeXYN_fields (w : Word) : encodeXYN (fieldOp w) (fieldX w) (fieldY w) (fieldN w) = w := by
  show (fieldOp w ++ fieldX w ++ fieldY w ++ fieldN w : BitVec (4 + 4 + 4 + 4)) = w
  apply BitVec.eq_of_getLsbD_eq
  intro k hk
  simp only [BitVec.getLsbD_append, fieldOp, fieldX, fieldY, fieldN, BitVec.getLsbD_extractLsb']
  split
  · simp [*]
  · split
    · simp [*, show 4 + (k - 4) = k by omega, BitVec.getLsbD_eq_getElem]
    · split
      · simp [*, show 8 + (k - 4 - 4) = k by omega, BitVec.getLsbD_eq_getElem]
      · simp [show k - 4 - 4 - 4 < 4 by omega, show 12 + (k - 4 - 4 - 4) = k by omega, BitVec.getLsbD_eq_getElem, hk]

/-- The two bytes of a word in memory order give the word back (R45). -/
theorem wordOfBytes_bytes (w : Word) : wordOfBytes (highByte w) (lowByte w) = w := by
  show (highByte w ++ lowByte w : BitVec (8 + 8)) = w
  apply BitVec.eq_of_getLsbD_eq
  intro k hk
  simp only [BitVec.getLsbD_append, highByte, lowByte, BitVec.getLsbD_extractLsb']
  split
  · simp [*]
  · simp [show k - 8 < 8 by omega, show 8 + (k - 8) = k by omega, BitVec.getLsbD_eq_getElem, hk]

/-- Each field as arithmetic on the word (R61). -/
theorem fieldOp_toNat (w : Word) : (fieldOp w).toNat = w.toNat / 4096 := by
  have := w.isLt
  simp [fieldOp, BitVec.extractLsb'_toNat, Nat.shiftRight_eq_div_pow]
  omega

theorem fieldX_toNat (w : Word) : (fieldX w).toNat = w.toNat / 256 % 16 := by
  simp [fieldX, BitVec.extractLsb'_toNat, Nat.shiftRight_eq_div_pow]

theorem fieldY_toNat (w : Word) : (fieldY w).toNat = w.toNat / 16 % 16 := by
  simp [fieldY, BitVec.extractLsb'_toNat, Nat.shiftRight_eq_div_pow]

theorem fieldN_toNat (w : Word) : (fieldN w).toNat = w.toNat % 16 := by
  simp [fieldN, BitVec.extractLsb'_toNat]

theorem fieldNN_toNat (w : Word) : (fieldNN w).toNat = w.toNat % 256 := by
  simp [fieldNN, BitVec.extractLsb'_toNat]

theorem fieldNNN_toNat (w : Word) : (fieldNNN w).toNat = w.toNat % 4096 := by
  simp [fieldNNN, BitVec.extractLsb'_toNat]

end Sys2Proof
end

