-- ==== Sys2Proof/Laws/State.lean ====
section
/-! SUPPORT. One lemma per field per update of `State`, each true by `rfl`, and the same for the views (a register, a byte, a
pixel, a key, an element's address) that an update leaves alone. -/

namespace Sys2Proof.Machine

variable (s : State)

/-! ### setPc -/

@[simp] theorem State.setPc_v (x : Word) : (s.setPc x).v = s.v := rfl
@[simp] theorem State.setPc_pc (x : Word) : (s.setPc x).pc = x := rfl
@[simp] theorem State.setPc_i (x : Word) : (s.setPc x).i = s.i := rfl
@[simp] theorem State.setPc_stack (x : Word) : (s.setPc x).stack = s.stack := rfl
@[simp] theorem State.setPc_dt (x : Word) : (s.setPc x).dt = s.dt := rfl
@[simp] theorem State.setPc_st (x : Word) : (s.setPc x).st = s.st := rfl
@[simp] theorem State.setPc_key (x : Word) : (s.setPc x).key = s.key := rfl
@[simp] theorem State.setPc_fb (x : Word) : (s.setPc x).fb = s.fb := rfl
@[simp] theorem State.setPc_mem (x : Word) : (s.setPc x).mem = s.mem := rfl
@[simp] theorem State.setPc_cycles (x : Word) : (s.setPc x).cycles = s.cycles := rfl
@[simp] theorem State.setPc_run (x : Word) : (s.setPc x).run = s.run := rfl
@[simp] theorem State.setPc_limit (x : Word) : (s.setPc x).limit = s.limit := rfl
@[simp] theorem State.setPc_ev (x : Word) : (s.setPc x).ev = s.ev := rfl
@[simp] theorem State.setPc_config (x : Word) : (s.setPc x).config = s.config := rfl
@[simp] theorem State.setPc_draws (x : Word) : (s.setPc x).draws = s.draws := rfl
@[simp] theorem State.setPc_inputs (x : Word) : (s.setPc x).inputs = s.inputs := rfl
@[simp] theorem State.setPc_answer (x : Word) : (s.setPc x).answer = s.answer := rfl
@[simp] theorem State.reg_setPc (x : Word) (r' : Nibble) : (s.setPc x).reg r' = s.reg r' := rfl
@[simp] theorem State.memRead_setPc (x : Word) (a' : Nat) : (s.setPc x).memRead a' = s.memRead a' := rfl
@[simp] theorem State.pixel_setPc (x : Word) (r' : Fin 32) (c' : Fin 64) : (s.setPc x).pixel r' c' = s.pixel r' c' := rfl
@[simp] theorem State.keyDown_setPc (x : Word) (k' : Nibble) : (s.setPc x).keyDown k' = s.keyDown k' := rfl
@[simp] theorem State.elementAddr_setPc (x : Word) (n' : Nat) : (s.setPc x).elementAddr n' = s.elementAddr n' := rfl

/-! ### setI -/

@[simp] theorem State.setI_v (x : Word) : (s.setI x).v = s.v := rfl
@[simp] theorem State.setI_pc (x : Word) : (s.setI x).pc = s.pc := rfl
@[simp] theorem State.setI_i (x : Word) : (s.setI x).i = x := rfl
@[simp] theorem State.setI_stack (x : Word) : (s.setI x).stack = s.stack := rfl
@[simp] theorem State.setI_dt (x : Word) : (s.setI x).dt = s.dt := rfl
@[simp] theorem State.setI_st (x : Word) : (s.setI x).st = s.st := rfl
@[simp] theorem State.setI_key (x : Word) : (s.setI x).key = s.key := rfl
@[simp] theorem State.setI_fb (x : Word) : (s.setI x).fb = s.fb := rfl
@[simp] theorem State.setI_mem (x : Word) : (s.setI x).mem = s.mem := rfl
@[simp] theorem State.setI_cycles (x : Word) : (s.setI x).cycles = s.cycles := rfl
@[simp] theorem State.setI_run (x : Word) : (s.setI x).run = s.run := rfl
@[simp] theorem State.setI_limit (x : Word) : (s.setI x).limit = s.limit := rfl
@[simp] theorem State.setI_ev (x : Word) : (s.setI x).ev = s.ev := rfl
@[simp] theorem State.setI_config (x : Word) : (s.setI x).config = s.config := rfl
@[simp] theorem State.setI_draws (x : Word) : (s.setI x).draws = s.draws := rfl
@[simp] theorem State.setI_inputs (x : Word) : (s.setI x).inputs = s.inputs := rfl
@[simp] theorem State.setI_answer (x : Word) : (s.setI x).answer = s.answer := rfl
@[simp] theorem State.reg_setI (x : Word) (r' : Nibble) : (s.setI x).reg r' = s.reg r' := rfl
@[simp] theorem State.memRead_setI (x : Word) (a' : Nat) : (s.setI x).memRead a' = s.memRead a' := rfl
@[simp] theorem State.pixel_setI (x : Word) (r' : Fin 32) (c' : Fin 64) : (s.setI x).pixel r' c' = s.pixel r' c' := rfl
@[simp] theorem State.keyDown_setI (x : Word) (k' : Nibble) : (s.setI x).keyDown k' = s.keyDown k' := rfl

/-! ### setStack -/

@[simp] theorem State.setStack_v (x : List Word) : (s.setStack x).v = s.v := rfl
@[simp] theorem State.setStack_pc (x : List Word) : (s.setStack x).pc = s.pc := rfl
@[simp] theorem State.setStack_i (x : List Word) : (s.setStack x).i = s.i := rfl
@[simp] theorem State.setStack_stack (x : List Word) : (s.setStack x).stack = x := rfl
@[simp] theorem State.setStack_dt (x : List Word) : (s.setStack x).dt = s.dt := rfl
@[simp] theorem State.setStack_st (x : List Word) : (s.setStack x).st = s.st := rfl
@[simp] theorem State.setStack_key (x : List Word) : (s.setStack x).key = s.key := rfl
@[simp] theorem State.setStack_fb (x : List Word) : (s.setStack x).fb = s.fb := rfl
@[simp] theorem State.setStack_mem (x : List Word) : (s.setStack x).mem = s.mem := rfl
@[simp] theorem State.setStack_cycles (x : List Word) : (s.setStack x).cycles = s.cycles := rfl
@[simp] theorem State.setStack_run (x : List Word) : (s.setStack x).run = s.run := rfl
@[simp] theorem State.setStack_limit (x : List Word) : (s.setStack x).limit = s.limit := rfl
@[simp] theorem State.setStack_ev (x : List Word) : (s.setStack x).ev = s.ev := rfl
@[simp] theorem State.setStack_config (x : List Word) : (s.setStack x).config = s.config := rfl
@[simp] theorem State.setStack_draws (x : List Word) : (s.setStack x).draws = s.draws := rfl
@[simp] theorem State.setStack_inputs (x : List Word) : (s.setStack x).inputs = s.inputs := rfl
@[simp] theorem State.setStack_answer (x : List Word) : (s.setStack x).answer = s.answer := rfl
@[simp] theorem State.reg_setStack (x : List Word) (r' : Nibble) : (s.setStack x).reg r' = s.reg r' := rfl
@[simp] theorem State.memRead_setStack (x : List Word) (a' : Nat) : (s.setStack x).memRead a' = s.memRead a' := rfl
@[simp] theorem State.pixel_setStack (x : List Word) (r' : Fin 32) (c' : Fin 64) : (s.setStack x).pixel r' c' = s.pixel r' c' := rfl
@[simp] theorem State.keyDown_setStack (x : List Word) (k' : Nibble) : (s.setStack x).keyDown k' = s.keyDown k' := rfl
@[simp] theorem State.elementAddr_setStack (x : List Word) (n' : Nat) : (s.setStack x).elementAddr n' = s.elementAddr n' := rfl

/-! ### setDt -/

@[simp] theorem State.setDt_v (x : Byte) : (s.setDt x).v = s.v := rfl
@[simp] theorem State.setDt_pc (x : Byte) : (s.setDt x).pc = s.pc := rfl
@[simp] theorem State.setDt_i (x : Byte) : (s.setDt x).i = s.i := rfl
@[simp] theorem State.setDt_stack (x : Byte) : (s.setDt x).stack = s.stack := rfl
@[simp] theorem State.setDt_dt (x : Byte) : (s.setDt x).dt = x := rfl
@[simp] theorem State.setDt_st (x : Byte) : (s.setDt x).st = s.st := rfl
@[simp] theorem State.setDt_key (x : Byte) : (s.setDt x).key = s.key := rfl
@[simp] theorem State.setDt_fb (x : Byte) : (s.setDt x).fb = s.fb := rfl
@[simp] theorem State.setDt_mem (x : Byte) : (s.setDt x).mem = s.mem := rfl
@[simp] theorem State.setDt_cycles (x : Byte) : (s.setDt x).cycles = s.cycles := rfl
@[simp] theorem State.setDt_run (x : Byte) : (s.setDt x).run = s.run := rfl
@[simp] theorem State.setDt_limit (x : Byte) : (s.setDt x).limit = s.limit := rfl
@[simp] theorem State.setDt_ev (x : Byte) : (s.setDt x).ev = s.ev := rfl
@[simp] theorem State.setDt_config (x : Byte) : (s.setDt x).config = s.config := rfl
@[simp] theorem State.setDt_draws (x : Byte) : (s.setDt x).draws = s.draws := rfl
@[simp] theorem State.setDt_inputs (x : Byte) : (s.setDt x).inputs = s.inputs := rfl
@[simp] theorem State.setDt_answer (x : Byte) : (s.setDt x).answer = s.answer := rfl
@[simp] theorem State.reg_setDt (x : Byte) (r' : Nibble) : (s.setDt x).reg r' = s.reg r' := rfl
@[simp] theorem State.memRead_setDt (x : Byte) (a' : Nat) : (s.setDt x).memRead a' = s.memRead a' := rfl
@[simp] theorem State.pixel_setDt (x : Byte) (r' : Fin 32) (c' : Fin 64) : (s.setDt x).pixel r' c' = s.pixel r' c' := rfl
@[simp] theorem State.keyDown_setDt (x : Byte) (k' : Nibble) : (s.setDt x).keyDown k' = s.keyDown k' := rfl
@[simp] theorem State.elementAddr_setDt (x : Byte) (n' : Nat) : (s.setDt x).elementAddr n' = s.elementAddr n' := rfl

/-! ### setSt -/

@[simp] theorem State.setSt_v (x : Byte) : (s.setSt x).v = s.v := rfl
@[simp] theorem State.setSt_pc (x : Byte) : (s.setSt x).pc = s.pc := rfl
@[simp] theorem State.setSt_i (x : Byte) : (s.setSt x).i = s.i := rfl
@[simp] theorem State.setSt_stack (x : Byte) : (s.setSt x).stack = s.stack := rfl
@[simp] theorem State.setSt_dt (x : Byte) : (s.setSt x).dt = s.dt := rfl
@[simp] theorem State.setSt_st (x : Byte) : (s.setSt x).st = x := rfl
@[simp] theorem State.setSt_key (x : Byte) : (s.setSt x).key = s.key := rfl
@[simp] theorem State.setSt_fb (x : Byte) : (s.setSt x).fb = s.fb := rfl
@[simp] theorem State.setSt_mem (x : Byte) : (s.setSt x).mem = s.mem := rfl
@[simp] theorem State.setSt_cycles (x : Byte) : (s.setSt x).cycles = s.cycles := rfl
@[simp] theorem State.setSt_run (x : Byte) : (s.setSt x).run = s.run := rfl
@[simp] theorem State.setSt_limit (x : Byte) : (s.setSt x).limit = s.limit := rfl
@[simp] theorem State.setSt_ev (x : Byte) : (s.setSt x).ev = s.ev := rfl
@[simp] theorem State.setSt_config (x : Byte) : (s.setSt x).config = s.config := rfl
@[simp] theorem State.setSt_draws (x : Byte) : (s.setSt x).draws = s.draws := rfl
@[simp] theorem State.setSt_inputs (x : Byte) : (s.setSt x).inputs = s.inputs := rfl
@[simp] theorem State.setSt_answer (x : Byte) : (s.setSt x).answer = s.answer := rfl
@[simp] theorem State.reg_setSt (x : Byte) (r' : Nibble) : (s.setSt x).reg r' = s.reg r' := rfl
@[simp] theorem State.memRead_setSt (x : Byte) (a' : Nat) : (s.setSt x).memRead a' = s.memRead a' := rfl
@[simp] theorem State.pixel_setSt (x : Byte) (r' : Fin 32) (c' : Fin 64) : (s.setSt x).pixel r' c' = s.pixel r' c' := rfl
@[simp] theorem State.keyDown_setSt (x : Byte) (k' : Nibble) : (s.setSt x).keyDown k' = s.keyDown k' := rfl
@[simp] theorem State.elementAddr_setSt (x : Byte) (n' : Nat) : (s.setSt x).elementAddr n' = s.elementAddr n' := rfl

/-! ### setFb -/

@[simp] theorem State.setFb_v (x : Vector (BitVec 64) 32) : (s.setFb x).v = s.v := rfl
@[simp] theorem State.setFb_pc (x : Vector (BitVec 64) 32) : (s.setFb x).pc = s.pc := rfl
@[simp] theorem State.setFb_i (x : Vector (BitVec 64) 32) : (s.setFb x).i = s.i := rfl
@[simp] theorem State.setFb_stack (x : Vector (BitVec 64) 32) : (s.setFb x).stack = s.stack := rfl
@[simp] theorem State.setFb_dt (x : Vector (BitVec 64) 32) : (s.setFb x).dt = s.dt := rfl
@[simp] theorem State.setFb_st (x : Vector (BitVec 64) 32) : (s.setFb x).st = s.st := rfl
@[simp] theorem State.setFb_key (x : Vector (BitVec 64) 32) : (s.setFb x).key = s.key := rfl
@[simp] theorem State.setFb_fb (x : Vector (BitVec 64) 32) : (s.setFb x).fb = x := rfl
@[simp] theorem State.setFb_mem (x : Vector (BitVec 64) 32) : (s.setFb x).mem = s.mem := rfl
@[simp] theorem State.setFb_cycles (x : Vector (BitVec 64) 32) : (s.setFb x).cycles = s.cycles := rfl
@[simp] theorem State.setFb_run (x : Vector (BitVec 64) 32) : (s.setFb x).run = s.run := rfl
@[simp] theorem State.setFb_limit (x : Vector (BitVec 64) 32) : (s.setFb x).limit = s.limit := rfl
@[simp] theorem State.setFb_ev (x : Vector (BitVec 64) 32) : (s.setFb x).ev = s.ev := rfl
@[simp] theorem State.setFb_config (x : Vector (BitVec 64) 32) : (s.setFb x).config = s.config := rfl
@[simp] theorem State.setFb_draws (x : Vector (BitVec 64) 32) : (s.setFb x).draws = s.draws := rfl
@[simp] theorem State.setFb_inputs (x : Vector (BitVec 64) 32) : (s.setFb x).inputs = s.inputs := rfl
@[simp] theorem State.setFb_answer (x : Vector (BitVec 64) 32) : (s.setFb x).answer = s.answer := rfl
@[simp] theorem State.reg_setFb (x : Vector (BitVec 64) 32) (r' : Nibble) : (s.setFb x).reg r' = s.reg r' := rfl
@[simp] theorem State.memRead_setFb (x : Vector (BitVec 64) 32) (a' : Nat) : (s.setFb x).memRead a' = s.memRead a' := rfl
@[simp] theorem State.keyDown_setFb (x : Vector (BitVec 64) 32) (k' : Nibble) : (s.setFb x).keyDown k' = s.keyDown k' := rfl
@[simp] theorem State.elementAddr_setFb (x : Vector (BitVec 64) 32) (n' : Nat) : (s.setFb x).elementAddr n' = s.elementAddr n' := rfl

/-! ### setMem -/

@[simp] theorem State.setMem_v (x : Memory) : (s.setMem x).v = s.v := rfl
@[simp] theorem State.setMem_pc (x : Memory) : (s.setMem x).pc = s.pc := rfl
@[simp] theorem State.setMem_i (x : Memory) : (s.setMem x).i = s.i := rfl
@[simp] theorem State.setMem_stack (x : Memory) : (s.setMem x).stack = s.stack := rfl
@[simp] theorem State.setMem_dt (x : Memory) : (s.setMem x).dt = s.dt := rfl
@[simp] theorem State.setMem_st (x : Memory) : (s.setMem x).st = s.st := rfl
@[simp] theorem State.setMem_key (x : Memory) : (s.setMem x).key = s.key := rfl
@[simp] theorem State.setMem_fb (x : Memory) : (s.setMem x).fb = s.fb := rfl
@[simp] theorem State.setMem_mem (x : Memory) : (s.setMem x).mem = x := rfl
@[simp] theorem State.setMem_cycles (x : Memory) : (s.setMem x).cycles = s.cycles := rfl
@[simp] theorem State.setMem_run (x : Memory) : (s.setMem x).run = s.run := rfl
@[simp] theorem State.setMem_limit (x : Memory) : (s.setMem x).limit = s.limit := rfl
@[simp] theorem State.setMem_ev (x : Memory) : (s.setMem x).ev = s.ev := rfl
@[simp] theorem State.setMem_config (x : Memory) : (s.setMem x).config = s.config := rfl
@[simp] theorem State.setMem_draws (x : Memory) : (s.setMem x).draws = s.draws := rfl
@[simp] theorem State.setMem_inputs (x : Memory) : (s.setMem x).inputs = s.inputs := rfl
@[simp] theorem State.setMem_answer (x : Memory) : (s.setMem x).answer = s.answer := rfl
@[simp] theorem State.reg_setMem (x : Memory) (r' : Nibble) : (s.setMem x).reg r' = s.reg r' := rfl
@[simp] theorem State.pixel_setMem (x : Memory) (r' : Fin 32) (c' : Fin 64) : (s.setMem x).pixel r' c' = s.pixel r' c' := rfl
@[simp] theorem State.keyDown_setMem (x : Memory) (k' : Nibble) : (s.setMem x).keyDown k' = s.keyDown k' := rfl
@[simp] theorem State.elementAddr_setMem (x : Memory) (n' : Nat) : (s.setMem x).elementAddr n' = s.elementAddr n' := rfl

/-! ### setRun -/

@[simp] theorem State.setRun_v (x : Bool) : (s.setRun x).v = s.v := rfl
@[simp] theorem State.setRun_pc (x : Bool) : (s.setRun x).pc = s.pc := rfl
@[simp] theorem State.setRun_i (x : Bool) : (s.setRun x).i = s.i := rfl
@[simp] theorem State.setRun_stack (x : Bool) : (s.setRun x).stack = s.stack := rfl
@[simp] theorem State.setRun_dt (x : Bool) : (s.setRun x).dt = s.dt := rfl
@[simp] theorem State.setRun_st (x : Bool) : (s.setRun x).st = s.st := rfl
@[simp] theorem State.setRun_key (x : Bool) : (s.setRun x).key = s.key := rfl
@[simp] theorem State.setRun_fb (x : Bool) : (s.setRun x).fb = s.fb := rfl
@[simp] theorem State.setRun_mem (x : Bool) : (s.setRun x).mem = s.mem := rfl
@[simp] theorem State.setRun_cycles (x : Bool) : (s.setRun x).cycles = s.cycles := rfl
@[simp] theorem State.setRun_run (x : Bool) : (s.setRun x).run = x := rfl
@[simp] theorem State.setRun_limit (x : Bool) : (s.setRun x).limit = s.limit := rfl
@[simp] theorem State.setRun_ev (x : Bool) : (s.setRun x).ev = s.ev := rfl
@[simp] theorem State.setRun_config (x : Bool) : (s.setRun x).config = s.config := rfl
@[simp] theorem State.setRun_draws (x : Bool) : (s.setRun x).draws = s.draws := rfl
@[simp] theorem State.setRun_inputs (x : Bool) : (s.setRun x).inputs = s.inputs := rfl
@[simp] theorem State.setRun_answer (x : Bool) : (s.setRun x).answer = s.answer := rfl
@[simp] theorem State.reg_setRun (x : Bool) (r' : Nibble) : (s.setRun x).reg r' = s.reg r' := rfl
@[simp] theorem State.memRead_setRun (x : Bool) (a' : Nat) : (s.setRun x).memRead a' = s.memRead a' := rfl
@[simp] theorem State.pixel_setRun (x : Bool) (r' : Fin 32) (c' : Fin 64) : (s.setRun x).pixel r' c' = s.pixel r' c' := rfl
@[simp] theorem State.keyDown_setRun (x : Bool) (k' : Nibble) : (s.setRun x).keyDown k' = s.keyDown k' := rfl
@[simp] theorem State.elementAddr_setRun (x : Bool) (n' : Nat) : (s.setRun x).elementAddr n' = s.elementAddr n' := rfl

/-! ### setLimit -/

@[simp] theorem State.setLimit_v (x : Option Nat) : (s.setLimit x).v = s.v := rfl
@[simp] theorem State.setLimit_pc (x : Option Nat) : (s.setLimit x).pc = s.pc := rfl
@[simp] theorem State.setLimit_i (x : Option Nat) : (s.setLimit x).i = s.i := rfl
@[simp] theorem State.setLimit_stack (x : Option Nat) : (s.setLimit x).stack = s.stack := rfl
@[simp] theorem State.setLimit_dt (x : Option Nat) : (s.setLimit x).dt = s.dt := rfl
@[simp] theorem State.setLimit_st (x : Option Nat) : (s.setLimit x).st = s.st := rfl
@[simp] theorem State.setLimit_key (x : Option Nat) : (s.setLimit x).key = s.key := rfl
@[simp] theorem State.setLimit_fb (x : Option Nat) : (s.setLimit x).fb = s.fb := rfl
@[simp] theorem State.setLimit_mem (x : Option Nat) : (s.setLimit x).mem = s.mem := rfl
@[simp] theorem State.setLimit_cycles (x : Option Nat) : (s.setLimit x).cycles = s.cycles := rfl
@[simp] theorem State.setLimit_run (x : Option Nat) : (s.setLimit x).run = s.run := rfl
@[simp] theorem State.setLimit_limit (x : Option Nat) : (s.setLimit x).limit = x := rfl
@[simp] theorem State.setLimit_ev (x : Option Nat) : (s.setLimit x).ev = s.ev := rfl
@[simp] theorem State.setLimit_config (x : Option Nat) : (s.setLimit x).config = s.config := rfl
@[simp] theorem State.setLimit_draws (x : Option Nat) : (s.setLimit x).draws = s.draws := rfl
@[simp] theorem State.setLimit_inputs (x : Option Nat) : (s.setLimit x).inputs = s.inputs := rfl
@[simp] theorem State.setLimit_answer (x : Option Nat) : (s.setLimit x).answer = s.answer := rfl
@[simp] theorem State.reg_setLimit (x : Option Nat) (r' : Nibble) : (s.setLimit x).reg r' = s.reg r' := rfl
@[simp] theorem State.memRead_setLimit (x : Option Nat) (a' : Nat) : (s.setLimit x).memRead a' = s.memRead a' := rfl
@[simp] theorem State.pixel_setLimit (x : Option Nat) (r' : Fin 32) (c' : Fin 64) : (s.setLimit x).pixel r' c' = s.pixel r' c' := rfl
@[simp] theorem State.keyDown_setLimit (x : Option Nat) (k' : Nibble) : (s.setLimit x).keyDown k' = s.keyDown k' := rfl
@[simp] theorem State.elementAddr_setLimit (x : Option Nat) (n' : Nat) : (s.setLimit x).elementAddr n' = s.elementAddr n' := rfl

/-! ### setInputs -/

@[simp] theorem State.setInputs_v (x : List Input) : (s.setInputs x).v = s.v := rfl
@[simp] theorem State.setInputs_pc (x : List Input) : (s.setInputs x).pc = s.pc := rfl
@[simp] theorem State.setInputs_i (x : List Input) : (s.setInputs x).i = s.i := rfl
@[simp] theorem State.setInputs_stack (x : List Input) : (s.setInputs x).stack = s.stack := rfl
@[simp] theorem State.setInputs_dt (x : List Input) : (s.setInputs x).dt = s.dt := rfl
@[simp] theorem State.setInputs_st (x : List Input) : (s.setInputs x).st = s.st := rfl
@[simp] theorem State.setInputs_key (x : List Input) : (s.setInputs x).key = s.key := rfl
@[simp] theorem State.setInputs_fb (x : List Input) : (s.setInputs x).fb = s.fb := rfl
@[simp] theorem State.setInputs_mem (x : List Input) : (s.setInputs x).mem = s.mem := rfl
@[simp] theorem State.setInputs_cycles (x : List Input) : (s.setInputs x).cycles = s.cycles := rfl
@[simp] theorem State.setInputs_run (x : List Input) : (s.setInputs x).run = s.run := rfl
@[simp] theorem State.setInputs_limit (x : List Input) : (s.setInputs x).limit = s.limit := rfl
@[simp] theorem State.setInputs_ev (x : List Input) : (s.setInputs x).ev = s.ev := rfl
@[simp] theorem State.setInputs_config (x : List Input) : (s.setInputs x).config = s.config := rfl
@[simp] theorem State.setInputs_draws (x : List Input) : (s.setInputs x).draws = s.draws := rfl
@[simp] theorem State.setInputs_inputs (x : List Input) : (s.setInputs x).inputs = x := rfl
@[simp] theorem State.setInputs_answer (x : List Input) : (s.setInputs x).answer = s.answer := rfl
@[simp] theorem State.reg_setInputs (x : List Input) (r' : Nibble) : (s.setInputs x).reg r' = s.reg r' := rfl
@[simp] theorem State.memRead_setInputs (x : List Input) (a' : Nat) : (s.setInputs x).memRead a' = s.memRead a' := rfl
@[simp] theorem State.pixel_setInputs (x : List Input) (r' : Fin 32) (c' : Fin 64) : (s.setInputs x).pixel r' c' = s.pixel r' c' := rfl
@[simp] theorem State.keyDown_setInputs (x : List Input) (k' : Nibble) : (s.setInputs x).keyDown k' = s.keyDown k' := rfl
@[simp] theorem State.elementAddr_setInputs (x : List Input) (n' : Nat) : (s.setInputs x).elementAddr n' = s.elementAddr n' := rfl

/-! ### setAnswer -/

@[simp] theorem State.setAnswer_v (x : Option Answer) : (s.setAnswer x).v = s.v := rfl
@[simp] theorem State.setAnswer_pc (x : Option Answer) : (s.setAnswer x).pc = s.pc := rfl
@[simp] theorem State.setAnswer_i (x : Option Answer) : (s.setAnswer x).i = s.i := rfl
@[simp] theorem State.setAnswer_stack (x : Option Answer) : (s.setAnswer x).stack = s.stack := rfl
@[simp] theorem State.setAnswer_dt (x : Option Answer) : (s.setAnswer x).dt = s.dt := rfl
@[simp] theorem State.setAnswer_st (x : Option Answer) : (s.setAnswer x).st = s.st := rfl
@[simp] theorem State.setAnswer_key (x : Option Answer) : (s.setAnswer x).key = s.key := rfl
@[simp] theorem State.setAnswer_fb (x : Option Answer) : (s.setAnswer x).fb = s.fb := rfl
@[simp] theorem State.setAnswer_mem (x : Option Answer) : (s.setAnswer x).mem = s.mem := rfl
@[simp] theorem State.setAnswer_cycles (x : Option Answer) : (s.setAnswer x).cycles = s.cycles := rfl
@[simp] theorem State.setAnswer_run (x : Option Answer) : (s.setAnswer x).run = s.run := rfl
@[simp] theorem State.setAnswer_limit (x : Option Answer) : (s.setAnswer x).limit = s.limit := rfl
@[simp] theorem State.setAnswer_ev (x : Option Answer) : (s.setAnswer x).ev = s.ev := rfl
@[simp] theorem State.setAnswer_config (x : Option Answer) : (s.setAnswer x).config = s.config := rfl
@[simp] theorem State.setAnswer_draws (x : Option Answer) : (s.setAnswer x).draws = s.draws := rfl
@[simp] theorem State.setAnswer_inputs (x : Option Answer) : (s.setAnswer x).inputs = s.inputs := rfl
@[simp] theorem State.setAnswer_answer (x : Option Answer) : (s.setAnswer x).answer = x := rfl
@[simp] theorem State.reg_setAnswer (x : Option Answer) (r' : Nibble) : (s.setAnswer x).reg r' = s.reg r' := rfl
@[simp] theorem State.memRead_setAnswer (x : Option Answer) (a' : Nat) : (s.setAnswer x).memRead a' = s.memRead a' := rfl
@[simp] theorem State.pixel_setAnswer (x : Option Answer) (r' : Fin 32) (c' : Fin 64) : (s.setAnswer x).pixel r' c' = s.pixel r' c' := rfl
@[simp] theorem State.keyDown_setAnswer (x : Option Answer) (k' : Nibble) : (s.setAnswer x).keyDown k' = s.keyDown k' := rfl
@[simp] theorem State.elementAddr_setAnswer (x : Option Answer) (n' : Nat) : (s.setAnswer x).elementAddr n' = s.elementAddr n' := rfl

/-! ### countCycle -/

@[simp] theorem State.countCycle_v : (s.countCycle).v = s.v := rfl
@[simp] theorem State.countCycle_pc : (s.countCycle).pc = s.pc := rfl
@[simp] theorem State.countCycle_i : (s.countCycle).i = s.i := rfl
@[simp] theorem State.countCycle_stack : (s.countCycle).stack = s.stack := rfl
@[simp] theorem State.countCycle_dt : (s.countCycle).dt = s.dt := rfl
@[simp] theorem State.countCycle_st : (s.countCycle).st = s.st := rfl
@[simp] theorem State.countCycle_key : (s.countCycle).key = s.key := rfl
@[simp] theorem State.countCycle_fb : (s.countCycle).fb = s.fb := rfl
@[simp] theorem State.countCycle_mem : (s.countCycle).mem = s.mem := rfl
@[simp] theorem State.countCycle_cycles : (s.countCycle).cycles = s.cycles + 1 := rfl
@[simp] theorem State.countCycle_run : (s.countCycle).run = s.run := rfl
@[simp] theorem State.countCycle_limit : (s.countCycle).limit = s.limit := rfl
@[simp] theorem State.countCycle_ev : (s.countCycle).ev = s.ev := rfl
@[simp] theorem State.countCycle_config : (s.countCycle).config = s.config := rfl
@[simp] theorem State.countCycle_draws : (s.countCycle).draws = s.draws := rfl
@[simp] theorem State.countCycle_inputs : (s.countCycle).inputs = s.inputs := rfl
@[simp] theorem State.countCycle_answer : (s.countCycle).answer = s.answer := rfl
@[simp] theorem State.reg_countCycle (r' : Nibble) : (s.countCycle).reg r' = s.reg r' := rfl
@[simp] theorem State.memRead_countCycle (a' : Nat) : (s.countCycle).memRead a' = s.memRead a' := rfl
@[simp] theorem State.pixel_countCycle (r' : Fin 32) (c' : Fin 64) : (s.countCycle).pixel r' c' = s.pixel r' c' := rfl
@[simp] theorem State.keyDown_countCycle (k' : Nibble) : (s.countCycle).keyDown k' = s.keyDown k' := rfl
@[simp] theorem State.elementAddr_countCycle (n' : Nat) : (s.countCycle).elementAddr n' = s.elementAddr n' := rfl

/-! ### countDraw -/

@[simp] theorem State.countDraw_v : (s.countDraw).v = s.v := rfl
@[simp] theorem State.countDraw_pc : (s.countDraw).pc = s.pc := rfl
@[simp] theorem State.countDraw_i : (s.countDraw).i = s.i := rfl
@[simp] theorem State.countDraw_stack : (s.countDraw).stack = s.stack := rfl
@[simp] theorem State.countDraw_dt : (s.countDraw).dt = s.dt := rfl
@[simp] theorem State.countDraw_st : (s.countDraw).st = s.st := rfl
@[simp] theorem State.countDraw_key : (s.countDraw).key = s.key := rfl
@[simp] theorem State.countDraw_fb : (s.countDraw).fb = s.fb := rfl
@[simp] theorem State.countDraw_mem : (s.countDraw).mem = s.mem := rfl
@[simp] theorem State.countDraw_cycles : (s.countDraw).cycles = s.cycles := rfl
@[simp] theorem State.countDraw_run : (s.countDraw).run = s.run := rfl
@[simp] theorem State.countDraw_limit : (s.countDraw).limit = s.limit := rfl
@[simp] theorem State.countDraw_ev : (s.countDraw).ev = s.ev := rfl
@[simp] theorem State.countDraw_config : (s.countDraw).config = s.config := rfl
@[simp] theorem State.countDraw_draws : (s.countDraw).draws = s.draws + 1 := rfl
@[simp] theorem State.countDraw_inputs : (s.countDraw).inputs = s.inputs := rfl
@[simp] theorem State.countDraw_answer : (s.countDraw).answer = s.answer := rfl
@[simp] theorem State.reg_countDraw (r' : Nibble) : (s.countDraw).reg r' = s.reg r' := rfl
@[simp] theorem State.memRead_countDraw (a' : Nat) : (s.countDraw).memRead a' = s.memRead a' := rfl
@[simp] theorem State.pixel_countDraw (r' : Fin 32) (c' : Fin 64) : (s.countDraw).pixel r' c' = s.pixel r' c' := rfl
@[simp] theorem State.keyDown_countDraw (k' : Nibble) : (s.countDraw).keyDown k' = s.keyDown k' := rfl
@[simp] theorem State.elementAddr_countDraw (n' : Nat) : (s.countDraw).elementAddr n' = s.elementAddr n' := rfl

/-! ### setReg -/

@[simp] theorem State.setReg_pc (r : Nibble) (b : Byte) : (s.setReg r b).pc = s.pc := rfl
@[simp] theorem State.setReg_i (r : Nibble) (b : Byte) : (s.setReg r b).i = s.i := rfl
@[simp] theorem State.setReg_stack (r : Nibble) (b : Byte) : (s.setReg r b).stack = s.stack := rfl
@[simp] theorem State.setReg_dt (r : Nibble) (b : Byte) : (s.setReg r b).dt = s.dt := rfl
@[simp] theorem State.setReg_st (r : Nibble) (b : Byte) : (s.setReg r b).st = s.st := rfl
@[simp] theorem State.setReg_key (r : Nibble) (b : Byte) : (s.setReg r b).key = s.key := rfl
@[simp] theorem State.setReg_fb (r : Nibble) (b : Byte) : (s.setReg r b).fb = s.fb := rfl
@[simp] theorem State.setReg_mem (r : Nibble) (b : Byte) : (s.setReg r b).mem = s.mem := rfl
@[simp] theorem State.setReg_cycles (r : Nibble) (b : Byte) : (s.setReg r b).cycles = s.cycles := rfl
@[simp] theorem State.setReg_run (r : Nibble) (b : Byte) : (s.setReg r b).run = s.run := rfl
@[simp] theorem State.setReg_limit (r : Nibble) (b : Byte) : (s.setReg r b).limit = s.limit := rfl
@[simp] theorem State.setReg_ev (r : Nibble) (b : Byte) : (s.setReg r b).ev = s.ev := rfl
@[simp] theorem State.setReg_config (r : Nibble) (b : Byte) : (s.setReg r b).config = s.config := rfl
@[simp] theorem State.setReg_draws (r : Nibble) (b : Byte) : (s.setReg r b).draws = s.draws := rfl
@[simp] theorem State.setReg_inputs (r : Nibble) (b : Byte) : (s.setReg r b).inputs = s.inputs := rfl
@[simp] theorem State.setReg_answer (r : Nibble) (b : Byte) : (s.setReg r b).answer = s.answer := rfl
@[simp] theorem State.memRead_setReg (r : Nibble) (b : Byte) (a' : Nat) : (s.setReg r b).memRead a' = s.memRead a' := rfl
@[simp] theorem State.pixel_setReg (r : Nibble) (b : Byte) (r' : Fin 32) (c' : Fin 64) : (s.setReg r b).pixel r' c' = s.pixel r' c' := rfl
@[simp] theorem State.keyDown_setReg (r : Nibble) (b : Byte) (k' : Nibble) : (s.setReg r b).keyDown k' = s.keyDown k' := rfl
@[simp] theorem State.elementAddr_setReg (r : Nibble) (b : Byte) (n' : Nat) : (s.setReg r b).elementAddr n' = s.elementAddr n' := rfl

/-! ### memWrite -/

@[simp] theorem State.memWrite_v (a : Nat) (b : Byte) : (s.memWrite a b).v = s.v := rfl
@[simp] theorem State.memWrite_pc (a : Nat) (b : Byte) : (s.memWrite a b).pc = s.pc := rfl
@[simp] theorem State.memWrite_i (a : Nat) (b : Byte) : (s.memWrite a b).i = s.i := rfl
@[simp] theorem State.memWrite_stack (a : Nat) (b : Byte) : (s.memWrite a b).stack = s.stack := rfl
@[simp] theorem State.memWrite_dt (a : Nat) (b : Byte) : (s.memWrite a b).dt = s.dt := rfl
@[simp] theorem State.memWrite_st (a : Nat) (b : Byte) : (s.memWrite a b).st = s.st := rfl
@[simp] theorem State.memWrite_key (a : Nat) (b : Byte) : (s.memWrite a b).key = s.key := rfl
@[simp] theorem State.memWrite_fb (a : Nat) (b : Byte) : (s.memWrite a b).fb = s.fb := rfl
@[simp] theorem State.memWrite_mem (a : Nat) (b : Byte) : (s.memWrite a b).mem = Memory.put s.config s.mem (a % 4096) b := rfl
@[simp] theorem State.memWrite_cycles (a : Nat) (b : Byte) : (s.memWrite a b).cycles = s.cycles := rfl
@[simp] theorem State.memWrite_run (a : Nat) (b : Byte) : (s.memWrite a b).run = s.run := rfl
@[simp] theorem State.memWrite_limit (a : Nat) (b : Byte) : (s.memWrite a b).limit = s.limit := rfl
@[simp] theorem State.memWrite_ev (a : Nat) (b : Byte) : (s.memWrite a b).ev = s.ev := rfl
@[simp] theorem State.memWrite_config (a : Nat) (b : Byte) : (s.memWrite a b).config = s.config := rfl
@[simp] theorem State.memWrite_draws (a : Nat) (b : Byte) : (s.memWrite a b).draws = s.draws := rfl
@[simp] theorem State.memWrite_inputs (a : Nat) (b : Byte) : (s.memWrite a b).inputs = s.inputs := rfl
@[simp] theorem State.memWrite_answer (a : Nat) (b : Byte) : (s.memWrite a b).answer = s.answer := rfl
@[simp] theorem State.reg_memWrite (a : Nat) (b : Byte) (r' : Nibble) : (s.memWrite a b).reg r' = s.reg r' := rfl
@[simp] theorem State.pixel_memWrite (a : Nat) (b : Byte) (r' : Fin 32) (c' : Fin 64) : (s.memWrite a b).pixel r' c' = s.pixel r' c' := rfl
@[simp] theorem State.keyDown_memWrite (a : Nat) (b : Byte) (k' : Nibble) : (s.memWrite a b).keyDown k' = s.keyDown k' := rfl
@[simp] theorem State.elementAddr_memWrite (a : Nat) (b : Byte) (n' : Nat) : (s.memWrite a b).elementAddr n' = s.elementAddr n' := rfl

/-! ### advance -/

@[simp] theorem State.advance_v : (s.advance).v = s.v := rfl
@[simp] theorem State.advance_pc : (s.advance).pc = s.pc + 2 := rfl
@[simp] theorem State.advance_i : (s.advance).i = s.i := rfl
@[simp] theorem State.advance_stack : (s.advance).stack = s.stack := rfl
@[simp] theorem State.advance_dt : (s.advance).dt = s.dt := rfl
@[simp] theorem State.advance_st : (s.advance).st = s.st := rfl
@[simp] theorem State.advance_key : (s.advance).key = s.key := rfl
@[simp] theorem State.advance_fb : (s.advance).fb = s.fb := rfl
@[simp] theorem State.advance_mem : (s.advance).mem = s.mem := rfl
@[simp] theorem State.advance_cycles : (s.advance).cycles = s.cycles := rfl
@[simp] theorem State.advance_run : (s.advance).run = s.run := rfl
@[simp] theorem State.advance_limit : (s.advance).limit = s.limit := rfl
@[simp] theorem State.advance_ev : (s.advance).ev = s.ev := rfl
@[simp] theorem State.advance_config : (s.advance).config = s.config := rfl
@[simp] theorem State.advance_draws : (s.advance).draws = s.draws := rfl
@[simp] theorem State.advance_inputs : (s.advance).inputs = s.inputs := rfl
@[simp] theorem State.advance_answer : (s.advance).answer = s.answer := rfl
@[simp] theorem State.reg_advance (r' : Nibble) : (s.advance).reg r' = s.reg r' := rfl
@[simp] theorem State.memRead_advance (a' : Nat) : (s.advance).memRead a' = s.memRead a' := rfl
@[simp] theorem State.pixel_advance (r' : Fin 32) (c' : Fin 64) : (s.advance).pixel r' c' = s.pixel r' c' := rfl
@[simp] theorem State.keyDown_advance (k' : Nibble) : (s.advance).keyDown k' = s.keyDown k' := rfl
@[simp] theorem State.elementAddr_advance (n' : Nat) : (s.advance).elementAddr n' = s.elementAddr n' := rfl

/-! ### raise -/

@[simp] theorem State.raise_v (k : Anomaly) (w : Word) : (s.raise k w).v = s.v := rfl
@[simp] theorem State.raise_pc (k : Anomaly) (w : Word) : (s.raise k w).pc = s.pc := rfl
@[simp] theorem State.raise_i (k : Anomaly) (w : Word) : (s.raise k w).i = s.i := rfl
@[simp] theorem State.raise_stack (k : Anomaly) (w : Word) : (s.raise k w).stack = s.stack := rfl
@[simp] theorem State.raise_dt (k : Anomaly) (w : Word) : (s.raise k w).dt = s.dt := rfl
@[simp] theorem State.raise_st (k : Anomaly) (w : Word) : (s.raise k w).st = s.st := rfl
@[simp] theorem State.raise_key (k : Anomaly) (w : Word) : (s.raise k w).key = s.key := rfl
@[simp] theorem State.raise_fb (k : Anomaly) (w : Word) : (s.raise k w).fb = s.fb := rfl
@[simp] theorem State.raise_mem (k : Anomaly) (w : Word) : (s.raise k w).mem = s.mem := rfl
@[simp] theorem State.raise_cycles (k : Anomaly) (w : Word) : (s.raise k w).cycles = s.cycles := rfl
@[simp] theorem State.raise_run (k : Anomaly) (w : Word) : (s.raise k w).run = s.run := rfl
@[simp] theorem State.raise_limit (k : Anomaly) (w : Word) : (s.raise k w).limit = s.limit := rfl
@[simp] theorem State.raise_ev (k : Anomaly) (w : Word) : (s.raise k w).ev = s.ev ++ [⟨k, w, s.pc - 2⟩] := rfl
@[simp] theorem State.raise_config (k : Anomaly) (w : Word) : (s.raise k w).config = s.config := rfl
@[simp] theorem State.raise_draws (k : Anomaly) (w : Word) : (s.raise k w).draws = s.draws := rfl
@[simp] theorem State.raise_inputs (k : Anomaly) (w : Word) : (s.raise k w).inputs = s.inputs := rfl
@[simp] theorem State.raise_answer (k : Anomaly) (w : Word) : (s.raise k w).answer = s.answer := rfl
@[simp] theorem State.reg_raise (k : Anomaly) (w : Word) (r' : Nibble) : (s.raise k w).reg r' = s.reg r' := rfl
@[simp] theorem State.memRead_raise (k : Anomaly) (w : Word) (a' : Nat) : (s.raise k w).memRead a' = s.memRead a' := rfl
@[simp] theorem State.pixel_raise (k : Anomaly) (w : Word) (r' : Fin 32) (c' : Fin 64) : (s.raise k w).pixel r' c' = s.pixel r' c' := rfl
@[simp] theorem State.keyDown_raise (k : Anomaly) (w : Word) (k' : Nibble) : (s.raise k w).keyDown k' = s.keyDown k' := rfl
@[simp] theorem State.elementAddr_raise (k : Anomaly) (w : Word) (n' : Nat) : (s.raise k w).elementAddr n' = s.elementAddr n' := rfl

/-! ### flipPixel -/

@[simp] theorem State.flipPixel_v (r : Fin 32) (c : Fin 64) : (s.flipPixel r c).v = s.v := rfl
@[simp] theorem State.flipPixel_pc (r : Fin 32) (c : Fin 64) : (s.flipPixel r c).pc = s.pc := rfl
@[simp] theorem State.flipPixel_i (r : Fin 32) (c : Fin 64) : (s.flipPixel r c).i = s.i := rfl
@[simp] theorem State.flipPixel_stack (r : Fin 32) (c : Fin 64) : (s.flipPixel r c).stack = s.stack := rfl
@[simp] theorem State.flipPixel_dt (r : Fin 32) (c : Fin 64) : (s.flipPixel r c).dt = s.dt := rfl
@[simp] theorem State.flipPixel_st (r : Fin 32) (c : Fin 64) : (s.flipPixel r c).st = s.st := rfl
@[simp] theorem State.flipPixel_key (r : Fin 32) (c : Fin 64) : (s.flipPixel r c).key = s.key := rfl
@[simp] theorem State.flipPixel_mem (r : Fin 32) (c : Fin 64) : (s.flipPixel r c).mem = s.mem := rfl
@[simp] theorem State.flipPixel_cycles (r : Fin 32) (c : Fin 64) : (s.flipPixel r c).cycles = s.cycles := rfl
@[simp] theorem State.flipPixel_run (r : Fin 32) (c : Fin 64) : (s.flipPixel r c).run = s.run := rfl
@[simp] theorem State.flipPixel_limit (r : Fin 32) (c : Fin 64) : (s.flipPixel r c).limit = s.limit := rfl
@[simp] theorem State.flipPixel_ev (r : Fin 32) (c : Fin 64) : (s.flipPixel r c).ev = s.ev := rfl
@[simp] theorem State.flipPixel_config (r : Fin 32) (c : Fin 64) : (s.flipPixel r c).config = s.config := rfl
@[simp] theorem State.flipPixel_draws (r : Fin 32) (c : Fin 64) : (s.flipPixel r c).draws = s.draws := rfl
@[simp] theorem State.flipPixel_inputs (r : Fin 32) (c : Fin 64) : (s.flipPixel r c).inputs = s.inputs := rfl
@[simp] theorem State.flipPixel_answer (r : Fin 32) (c : Fin 64) : (s.flipPixel r c).answer = s.answer := rfl
@[simp] theorem State.reg_flipPixel (r : Fin 32) (c : Fin 64) (r' : Nibble) : (s.flipPixel r c).reg r' = s.reg r' := rfl
@[simp] theorem State.memRead_flipPixel (r : Fin 32) (c : Fin 64) (a' : Nat) : (s.flipPixel r c).memRead a' = s.memRead a' := rfl
@[simp] theorem State.keyDown_flipPixel (r : Fin 32) (c : Fin 64) (k' : Nibble) : (s.flipPixel r c).keyDown k' = s.keyDown k' := rfl
@[simp] theorem State.elementAddr_flipPixel (r : Fin 32) (c : Fin 64) (n' : Nat) : (s.flipPixel r c).elementAddr n' = s.elementAddr n' := rfl

/-! ### setKey -/

@[simp] theorem State.setKey_v (k : Nibble) (p : Bool) : (s.setKey k p).v = s.v := rfl
@[simp] theorem State.setKey_pc (k : Nibble) (p : Bool) : (s.setKey k p).pc = s.pc := rfl
@[simp] theorem State.setKey_i (k : Nibble) (p : Bool) : (s.setKey k p).i = s.i := rfl
@[simp] theorem State.setKey_stack (k : Nibble) (p : Bool) : (s.setKey k p).stack = s.stack := rfl
@[simp] theorem State.setKey_dt (k : Nibble) (p : Bool) : (s.setKey k p).dt = s.dt := rfl
@[simp] theorem State.setKey_st (k : Nibble) (p : Bool) : (s.setKey k p).st = s.st := rfl
@[simp] theorem State.setKey_fb (k : Nibble) (p : Bool) : (s.setKey k p).fb = s.fb := rfl
@[simp] theorem State.setKey_mem (k : Nibble) (p : Bool) : (s.setKey k p).mem = s.mem := rfl
@[simp] theorem State.setKey_cycles (k : Nibble) (p : Bool) : (s.setKey k p).cycles = s.cycles := rfl
@[simp] theorem State.setKey_run (k : Nibble) (p : Bool) : (s.setKey k p).run = s.run := rfl
@[simp] theorem State.setKey_limit (k : Nibble) (p : Bool) : (s.setKey k p).limit = s.limit := rfl
@[simp] theorem State.setKey_ev (k : Nibble) (p : Bool) : (s.setKey k p).ev = s.ev := rfl
@[simp] theorem State.setKey_config (k : Nibble) (p : Bool) : (s.setKey k p).config = s.config := rfl
@[simp] theorem State.setKey_draws (k : Nibble) (p : Bool) : (s.setKey k p).draws = s.draws := rfl
@[simp] theorem State.setKey_inputs (k : Nibble) (p : Bool) : (s.setKey k p).inputs = s.inputs := rfl
@[simp] theorem State.setKey_answer (k : Nibble) (p : Bool) : (s.setKey k p).answer = s.answer := rfl
@[simp] theorem State.reg_setKey (k : Nibble) (p : Bool) (r' : Nibble) : (s.setKey k p).reg r' = s.reg r' := rfl
@[simp] theorem State.memRead_setKey (k : Nibble) (p : Bool) (a' : Nat) : (s.setKey k p).memRead a' = s.memRead a' := rfl
@[simp] theorem State.pixel_setKey (k : Nibble) (p : Bool) (r' : Fin 32) (c' : Fin 64) : (s.setKey k p).pixel r' c' = s.pixel r' c' := rfl
@[simp] theorem State.elementAddr_setKey (k : Nibble) (p : Bool) (n' : Nat) : (s.setKey k p).elementAddr n' = s.elementAddr n' := rfl

/-! ### takeInput -/

@[simp] theorem State.takeInput_v : (s.takeInput).v = s.v := rfl
@[simp] theorem State.takeInput_pc : (s.takeInput).pc = s.pc := rfl
@[simp] theorem State.takeInput_i : (s.takeInput).i = s.i := rfl
@[simp] theorem State.takeInput_stack : (s.takeInput).stack = s.stack := rfl
@[simp] theorem State.takeInput_dt : (s.takeInput).dt = s.dt := rfl
@[simp] theorem State.takeInput_st : (s.takeInput).st = s.st := rfl
@[simp] theorem State.takeInput_key : (s.takeInput).key = s.key := rfl
@[simp] theorem State.takeInput_fb : (s.takeInput).fb = s.fb := rfl
@[simp] theorem State.takeInput_mem : (s.takeInput).mem = s.mem := rfl
@[simp] theorem State.takeInput_cycles : (s.takeInput).cycles = s.cycles := rfl
@[simp] theorem State.takeInput_run : (s.takeInput).run = s.run := rfl
@[simp] theorem State.takeInput_limit : (s.takeInput).limit = s.limit := rfl
@[simp] theorem State.takeInput_ev : (s.takeInput).ev = s.ev := rfl
@[simp] theorem State.takeInput_config : (s.takeInput).config = s.config := rfl
@[simp] theorem State.takeInput_draws : (s.takeInput).draws = s.draws := rfl
@[simp] theorem State.takeInput_inputs : (s.takeInput).inputs = s.inputs.tail := rfl
@[simp] theorem State.takeInput_answer : (s.takeInput).answer = s.answer := rfl
@[simp] theorem State.reg_takeInput (r' : Nibble) : (s.takeInput).reg r' = s.reg r' := rfl
@[simp] theorem State.memRead_takeInput (a' : Nat) : (s.takeInput).memRead a' = s.memRead a' := rfl
@[simp] theorem State.pixel_takeInput (r' : Fin 32) (c' : Fin 64) : (s.takeInput).pixel r' c' = s.pixel r' c' := rfl
@[simp] theorem State.keyDown_takeInput (k' : Nibble) : (s.takeInput).keyDown k' = s.keyDown k' := rfl
@[simp] theorem State.elementAddr_takeInput (n' : Nat) : (s.takeInput).elementAddr n' = s.elementAddr n' := rfl

end Sys2Proof.Machine
end

