-- ==== Sys2Proof/Laws/Memory.lean ====
section
/-! SUPPORT. What a memory write does, once: what every address reads afterwards, and that the canonical form is kept. -/

namespace Sys2Proof.Machine

theorem Memory.lookup_insert (m : Memory) (a : Nat) (b : Byte) (a' : Nat) :
    Memory.lookup (Memory.insert m a b) a' = if a' = a then some b else Memory.lookup m a' := by
  induction m with
  | nil => simp [Memory.insert, Memory.lookup, eq_comm]
  | cons c rest ih =>
    obtain ⟨k, d⟩ := c
    by_cases h1 : k < a
    · simp only [Memory.insert, if_pos h1, Memory.lookup, ih]
      by_cases h2 : k = a' <;> simp [h2]
      omega
    · by_cases h2 : k = a
      · subst h2
        by_cases h3 : a' = k
        · simp [Memory.insert, Memory.lookup, h3]
        · simp [Memory.insert, Memory.lookup, h3, Ne.symm h3]
      · simp only [Memory.insert, if_neg h1, if_neg h2, Memory.lookup, eq_comm (a := a)]

theorem Memory.lookup_erase (m : Memory) (a a' : Nat) :
    Memory.lookup (Memory.erase m a) a' = if a' = a then none else Memory.lookup m a' := by
  induction m with
  | nil => simp [Memory.erase, Memory.lookup]
  | cons c rest ih =>
    obtain ⟨k, d⟩ := c
    simp only [Memory.erase] at ih ⊢
    by_cases h : k = a
    · subst h
      simp only [List.filter_cons, bne_self_eq_false, Bool.false_eq_true, if_false, ih, Memory.lookup]
      split
      · rfl
      · rw [if_neg (fun e => by simp_all)]
    · simp only [List.filter_cons, bne_iff_ne, ne_eq, h, not_false_eq_true, if_true, Memory.lookup, ih]
      split
      · rw [if_neg (by omega)]
      · rfl

/-- Read after write: the address written reads the byte written, every other address as before. -/
theorem Memory.get_put (cfg : Config) (m : Memory) (a : Nat) (b : Byte) (a' : Nat) :
    Memory.get cfg (Memory.put cfg m a b) a' = if a' = a then b else Memory.get cfg m a' := by
  unfold Memory.get Memory.put
  split
  · rw [Memory.lookup_erase]
    split <;> simp_all
  · rw [Memory.lookup_insert]
    split <;> simp_all

theorem Memory.mem_insert {m : Memory} {a : Nat} {b : Byte} {c : Host.Cell} (h : c ∈ Memory.insert m a b) :
    c = (a, b) ∨ c ∈ m := by
  induction m with
  | nil => simpa [Memory.insert] using h
  | cons d rest ih =>
    obtain ⟨k, e⟩ := d
    simp only [Memory.insert] at h
    split at h
    · rcases List.mem_cons.mp h with h | h
      · exact .inr (h ▸ List.mem_cons_self)
      · exact (ih h).imp_right (List.mem_cons_of_mem _)
    · split at h
      · exact (List.mem_cons.mp h).imp_right (List.mem_cons_of_mem _)
      · exact List.mem_cons.mp h

theorem Memory.insert_pairwise {m : Memory} (a : Nat) (b : Byte)
    (h : m.Pairwise fun c d => c.1 < d.1) : (Memory.insert m a b).Pairwise fun c d => c.1 < d.1 := by
  induction m with
  | nil => simp [Memory.insert]
  | cons d rest ih =>
    obtain ⟨k, e⟩ := d
    have hk : ∀ c ∈ rest, k < c.1 := fun c hc => List.rel_of_pairwise_cons h hc
    have hr := List.Pairwise.of_cons h
    simp only [Memory.insert]
    split
    · refine List.pairwise_cons.mpr ⟨fun c hc => ?_, ih hr⟩
      rcases Memory.mem_insert hc with rfl | hc
      · assumption
      · exact hk _ hc
    · split
      · rename_i h2
        exact List.pairwise_cons.mpr ⟨fun c hc => by simpa [← h2] using hk _ hc, hr⟩
      · refine List.pairwise_cons.mpr ⟨fun c hc => ?_, h⟩
        rcases List.mem_cons.mp hc with rfl | hc
        · show a < k
          omega
        · have : k < c.1 := hk _ hc
          show a < c.1
          omega

/-- A write below 4096 keeps the canonical form. -/
theorem Memory.wf_put {cfg : Config} {m : Memory} {a : Nat} (b : Byte) (ha : a < 4096)
    (h : Memory.wf cfg m) : Memory.wf cfg (Memory.put cfg m a b) := by
  unfold Memory.put
  split
  · exact ⟨h.1.filter _, fun c hc => h.2 c (List.mem_filter.mp hc).1⟩
  · refine ⟨Memory.insert_pairwise a b h.1, fun c hc => ?_⟩
    rcases Memory.mem_insert hc with rfl | hc
    · exact ⟨ha, by assumption⟩
    · exact h.2 c hc

/-- `MemWrite` (R43) keeps the canonical form, whatever the address. -/
theorem State.memWrite_wf (s : State) (a : Nat) (b : Byte) (h : Memory.wf s.config s.mem) :
    Memory.wf s.config (s.memWrite a b).mem :=
  Memory.wf_put b (Nat.mod_lt _ (by decide)) h

theorem State.memRead_mod (s : State) (a : Nat) : s.memRead (a % 4096) = s.memRead a := by
  simp [State.memRead]

/-- `MemWrite` then `MemRead` (R42, R43). -/
theorem State.memRead_memWrite (s : State) (a : Nat) (b : Byte) (a' : Nat) :
    (s.memWrite a b).memRead a' = if a' % 4096 = a % 4096 then b else s.memRead a' :=
  Memory.get_put ..

/-- `memWriteAll` changes memory alone. -/
theorem State.memWriteAll_frame (s : State) (origin : Nat) (bytes : List Byte) :
    ∃ m, s.memWriteAll origin bytes = s.setMem m ∧ (Memory.wf s.config s.mem → Memory.wf s.config m) := by
  induction bytes generalizing s origin with
  | nil => exact ⟨s.mem, rfl, id⟩
  | cons b rest ih =>
    obtain ⟨m, h, hw⟩ := ih (s.memWrite origin b) (origin + 1)
    exact ⟨m, h, fun w => hw (s.memWrite_wf origin b w)⟩

/-- What memory reads after bytes were written from `origin`, all inside the address space. -/
theorem State.memRead_memWriteAll (s : State) (origin : Nat) (bytes : List Byte)
    (fits : bytes.length + origin ≤ 4096) (a : Nat) (ha : a < 4096) :
    (s.memWriteAll origin bytes).memRead a =
      if h : origin ≤ a ∧ a - origin < bytes.length then bytes[a - origin] else s.memRead a := by
  induction bytes generalizing s origin with
  | nil => simp [State.memWriteAll]
  | cons b rest ih =>
    simp only [List.length_cons] at fits
    rw [State.memWriteAll, ih _ _ (by omega), State.memRead_memWrite,
      Nat.mod_eq_of_lt ha, Nat.mod_eq_of_lt (show origin < 4096 by omega)]
    by_cases h1 : a = origin
    · subst h1
      rw [dif_neg (by omega), if_pos rfl, dif_pos ⟨le_refl _, by simp⟩]
      simp
    · rw [if_neg h1]
      by_cases h2 : origin + 1 ≤ a ∧ a - (origin + 1) < rest.length
      · rw [dif_pos h2, dif_pos ⟨by omega, by simp; omega⟩]
        have e : a - origin = (a - (origin + 1)) + 1 := by omega
        simp only [e, List.getElem_cons_succ]
      · rw [dif_neg h2, dif_neg (by simp; omega)]

end Sys2Proof.Machine
end

