-- ==== Sys2Proof/Laws/Ops.lean ====
section
/-! SUPPORT. What each shared operation does, once: registers, flag writes, skips, keypad, framebuffer, block moves, sprite bits. -/

namespace Sys2Proof.Machine

variable (s : State)

/-! ### Registers -/

/-- A register write changes that register alone (R10). -/
theorem State.reg_setReg (r : Nibble) (b : Byte) (r' : Nibble) :
    (s.setReg r b).reg r' = if r' = r then b else s.reg r' := by
  unfold State.reg State.setReg
  simp only [Vector.getElem_set]
  by_cases h : r' = r
  · simp [h]
  · have : r.toNat ≠ r'.toNat := fun e => h (BitVec.eq_of_toNat_eq e.symm)
    simp [h, this]

@[simp] theorem State.reg_setReg_self (r : Nibble) (b : Byte) : (s.setReg r b).reg r = b := by
  rw [State.reg_setReg, if_pos rfl]

theorem State.reg_setReg_of_ne {r r' : Nibble} (b : Byte) (h : r' ≠ r) : (s.setReg r b).reg r' = s.reg r' := by
  rw [State.reg_setReg, if_neg h]

/-- Result, then flag (R11 (c), R100): VF holds the flag, `x` the result unless it is VF, the rest as before. -/
theorem State.reg_setRegThenFlag (x : Nibble) (b : Byte) (f : Bool) (r : Nibble) :
    (s.setRegThenFlag x b f).reg r = if r = 0xF then flagByte f else if r = x then b else s.reg r := by
  simp only [State.setRegThenFlag, State.reg_setReg, vf]

/-- A register write changes no field but `v`. -/
theorem State.setReg_onlyChanges (r : Nibble) (b : Byte) : s.onlyChanges (s.setReg r b) [.v] := by
  intro f hf
  cases f <;> first | exact absurd List.mem_cons_self hf | exact rfl | exact fun _ => rfl | exact fun _ _ => rfl

theorem State.setRegThenFlag_onlyChanges (x : Nibble) (b : Byte) (f : Bool) :
    s.onlyChanges (s.setRegThenFlag x b f) [.v] := by
  intro g hg
  cases g <;> first | exact absurd List.mem_cons_self hg | exact rfl | exact fun _ => rfl | exact fun _ _ => rfl

/-- A memory write changes no field but `mem`. -/
theorem State.memWrite_onlyChanges (a : Nat) (b : Byte) : s.onlyChanges (s.memWrite a b) [.mem] := by
  intro f hf
  cases f <;> first | exact absurd List.mem_cons_self hf | exact rfl | exact fun _ => rfl | exact fun _ _ => rfl

/-- A skip changes `pc` alone (R90). -/
theorem State.skipIf_pc (c : Bool) : (s.skipIf c).pc = if c then s.pc + 2 else s.pc := by
  cases c <;> rfl

theorem State.skipIf_onlyChanges (c : Bool) : s.onlyChanges (s.skipIf c) [.pc] := by
  intro f hf
  cases c <;> cases f <;> first | exact absurd List.mem_cons_self hf | exact rfl | exact fun _ => rfl | exact fun _ _ => rfl

/-- `raise` appends one record and changes nothing else (R163, R168). -/
theorem State.raise_onlyChanges (k : Anomaly) (w : Word) : s.onlyChanges (s.raise k w) [.ev] := by
  intro f hf
  cases f <;> first | exact absurd List.mem_cons_self hf | exact rfl | exact fun _ => rfl | exact fun _ _ => rfl

/-! ### Keypad -/

/-- `set_key` changes one key (R175). -/
theorem State.keyDown_setKey (k : Nibble) (p : Bool) (k' : Nibble) :
    (s.setKey k p).keyDown k' = if k' = k then p else s.keyDown k' := by
  unfold State.keyDown State.setKey
  simp only [Vector.getElem_set]
  by_cases h : k' = k
  · simp [h]
  · have : k.toNat ≠ k'.toNat := fun e => h (BitVec.eq_of_toNat_eq e.symm)
    simp [h, this]

/-- What the key scan finds (R142): a pressed key below which none is pressed. -/
theorem State.leastKey_some {k : Nat} (h : s.leastKey = some k) :
    k < 16 ∧ s.keyDown (BitVec.ofNat 4 k) = true ∧ ∀ j < k, s.keyDown (BitVec.ofNat 4 j) = false := by
  unfold State.leastKey at h
  obtain ⟨hp, i, hi, hk, hlt⟩ := List.find?_eq_some_iff_getElem.mp h
  simp only [List.length_range] at hi
  simp only [List.getElem_range] at hk hlt
  subst hk
  exact ⟨hi, hp, fun j hj => by simpa using hlt j hj⟩

/-- The key scan finds nothing only when no key is pressed (R142). -/
theorem State.leastKey_none (h : s.leastKey = none) (k : Nibble) : s.keyDown k = false := by
  have := List.find?_eq_none.mp h k.toNat (List.mem_range.mpr k.isLt)
  simpa using this

/-! ### Framebuffer -/

theorem State.pixel_flipPixel (r : Fin 32) (c : Fin 64) (r' : Fin 32) (c' : Fin 64) :
    (s.flipPixel r c).pixel r' c' = (s.pixel r' c' ^^ decide (r' = r ∧ c' = c)) := by
  unfold State.pixel State.flipPixel State.setFb
  by_cases h : r' = r
  · subst h
    simp only [Fin.getElem_fin, Vector.getElem_set_self, BitVec.getLsbD_xor, BitVec.getLsbD_twoPow, true_and, c.isLt,
      decide_true, Bool.true_and]
    congr 1
    exact decide_eq_decide.mpr ⟨fun e => Fin.ext e.symm, fun e => e ▸ rfl⟩
  · have : r.val ≠ r'.val := fun e => h (Fin.ext e.symm)
    simp [h, this]

theorem State.pixel_clearFb (r : Fin 32) (c : Fin 64) : s.clearFb.pixel r c = false := by
  simp [State.clearFb, State.pixel]

theorem State.clearFb_onlyChanges : s.onlyChanges s.clearFb [.fb] := by
  intro f hf
  cases f <;> first | exact absurd List.mem_cons_self hf | exact rfl | exact fun _ => rfl

/-- One sprite bit on a pixel: the pixel is flipped (R131). -/
theorem State.pixel_hitPixel (r : Fin 32) (c : Fin 64) (r' : Fin 32) (c' : Fin 64) :
    (s.hitPixel r c).pixel r' c' = (s.pixel r' c' ^^ decide (r' = r ∧ c' = c)) := by
  unfold State.hitPixel
  split
  · rw [State.pixel_flipPixel]; rfl
  · rw [State.pixel_flipPixel]

/-- One sprite bit on a pixel: VF becomes 1 if the pixel was 1 (R131). -/
theorem State.reg_hitPixel (r : Fin 32) (c : Fin 64) (r' : Nibble) :
    (s.hitPixel r c).reg r' = if r' = 0xF ∧ s.pixel r c = true then 1 else s.reg r' := by
  unfold State.hitPixel
  split <;> rename_i h <;> simp [State.reg_setReg, h, vf]

theorem State.hitPixel_onlyChanges (r : Fin 32) (c : Fin 64) : s.onlyChanges (s.hitPixel r c) [.v, .fb] := by
  intro f hf
  unfold State.hitPixel
  split <;> cases f <;> first | exact absurd (by decide) hf | exact rfl | exact fun _ => rfl

/-! ### Frames composed -/

theorem State.onlyChanges_refl (l : List Field) : s.onlyChanges s l := by
  intro f _
  cases f <;> first | exact rfl | exact fun _ => rfl | exact fun _ _ => rfl

variable {s}

theorem State.onlyChanges_trans {t u : State} {l : List Field} (h : s.onlyChanges t l) (h' : t.onlyChanges u l) :
    s.onlyChanges u l := by
  intro f hf
  have a := h f hf
  have b := h' f hf
  cases f <;> first | exact b.trans a | exact fun x => (b x).trans (a x) | exact fun x y => (b x y).trans (a x y)

theorem State.onlyChanges_mono {t : State} {l l' : List Field} (h : s.onlyChanges t l) (sub : l ⊆ l') :
    s.onlyChanges t l' := fun f hf => h f fun m => hf (sub m)

variable (s)

/-! ### Block moves (R124, R125) -/

theorem State.storeRegs_onlyChanges (k : Nat) : s.onlyChanges (s.storeRegs k) [.mem] := by
  induction k with
  | zero => exact s.onlyChanges_refl _
  | succ k ih => exact State.onlyChanges_trans ih (State.memWrite_onlyChanges _ _ _)

theorem State.storeRegs_wf (k : Nat) (h : Memory.wf s.config s.mem) :
    Memory.wf (s.storeRegs k).config (s.storeRegs k).mem := by
  induction k with
  | zero => exact h
  | succ k ih => exact State.memWrite_wf _ _ _ ih

theorem State.loadRegs_onlyChanges (k : Nat) : s.onlyChanges (s.loadRegs k) [.v] := by
  induction k with
  | zero => exact s.onlyChanges_refl _
  | succ k ih => exact State.onlyChanges_trans ih (State.setReg_onlyChanges _ _ _)

/-- `V[0..k-1]` are loaded from the bytes at `I`, the other registers stay (R125). -/
theorem State.reg_loadRegs (k : Nat) (hk : k ≤ 16) (r : Nibble) :
    (s.loadRegs k).reg r = if r.toNat < k then s.memRead (s.elementAddr r.toNat) else s.reg r := by
  induction k with
  | zero => rfl
  | succ k ih =>
    have hm := s.loadRegs_onlyChanges k
    rw [State.loadRegs, State.reg_setReg, ih (by omega)]
    have e : r = BitVec.ofNat 4 k ↔ r.toNat = k := by
      rw [← BitVec.toNat_inj, BitVec.toNat_ofNat, Nat.mod_eq_of_lt (by omega)]
    simp only [e]
    by_cases h : r.toNat = k
    · rw [if_pos h, if_pos (by omega), h]
    · rw [if_neg h]
      exact if_congr (by omega) rfl rfl

/-- The bytes from `I` on hold `V[0..k-1]`, every other byte stays (R124). -/
theorem State.memRead_storeRegs (k : Nat) (hk : k ≤ 16) :
    (∀ r : Nibble, r.toNat < k → (s.storeRegs k).memRead (s.elementAddr r.toNat) = s.reg r) ∧
      ∀ a < 4096, (∀ j < k, a ≠ s.elementAddr j) → (s.storeRegs k).memRead a = s.memRead a := by
  induction k with
  | zero => exact ⟨fun _ h => absurd h (by omega), fun _ _ _ => rfl⟩
  | succ k ih =>
    obtain ⟨h1, h2⟩ := ih (by omega)
    simp only [State.storeRegs, State.memRead_memWrite]
    refine ⟨fun r hr => ?_, fun a ha hne => ?_⟩
    · by_cases h : r.toNat = k
      · rw [if_pos (by rw [h]), ← h]
        congr 1
        simp
      · rw [if_neg (by simp only [State.elementAddr]; omega), h1 r (by omega)]
    · have := hne k (by omega)
      rw [if_neg (by simp only [State.elementAddr] at *; omega)]
      exact h2 a ha fun j hj => hne j (by omega)

/-- What a frame says of an untouched field, for a block load: memory reads as before. -/
theorem State.memRead_loadRegs (k a : Nat) : (s.loadRegs k).memRead a = s.memRead a :=
  s.loadRegs_onlyChanges k .mem (by decide) a

/-! ### Sprites (R131) -/

theorem State.drawBits_onlyChanges (cx cy : Byte) (r : Nat) (row : Byte) (k : Nat) :
    s.onlyChanges (s.drawBits cx cy r row k) [.v, .fb] := by
  induction k with
  | zero => exact s.onlyChanges_refl _
  | succ k ih =>
    unfold State.drawBits
    dsimp only
    split
    · exact State.onlyChanges_trans ih (State.hitPixel_onlyChanges _ _ _)
    · exact ih

theorem State.drawRows_onlyChanges (cx cy : Byte) (n : Nat) : s.onlyChanges (s.drawRows cx cy n) [.v, .fb] := by
  induction n with
  | zero => exact s.onlyChanges_refl _
  | succ n ih => exact State.onlyChanges_trans ih (State.drawBits_onlyChanges _ _ _ _ _ _)

/-- The first `k` bits of a row flip the pixels they land on, each at most once. -/
theorem State.pixel_drawBits (cx cy : Byte) (r : Nat) (row : Byte) (k : Nat) (hk : k ≤ 8) (r' : Fin 32) (c' : Fin 64) :
    (s.drawBits cx cy r row k).pixel r' c' = (s.pixel r' c' ^^
      (decide (r' = Fin.ofNat 32 (cy.toNat + r)) && decide ((c'.val + 64 - cx.toNat % 64) % 64 < k) &&
        spriteBit row ((c'.val + 64 - cx.toNat % 64) % 64))) := by
  induction k with
  | zero => simp [State.drawBits]
  | succ k ih =>
    have ih := ih (by omega)
    have hc := c'.isLt
    have hcol : c' = Fin.ofNat 64 (cx.toNat + k) ↔ (c'.val + 64 - cx.toNat % 64) % 64 = k := by
      rw [Fin.ext_iff, Fin.val_ofNat]
      omega
    unfold State.drawBits
    dsimp only
    generalize (c'.val + 64 - cx.toNat % 64) % 64 = d at *
    generalize Fin.ofNat 32 (cy.toNat + r) = R at *
    generalize Fin.ofNat 64 (cx.toNat + k) = C at *
    by_cases hb : spriteBit row k = true
    · rw [if_pos hb, State.pixel_hitPixel, ih]
      simp only [hcol]
      by_cases e : d = k
      · subst e
        by_cases hr : r' = R <;> simp [hb, hr]
      · have : d < k + 1 ↔ d < k := by omega
        simp [e, this]
    · rw [if_neg hb, ih]
      by_cases e : d = k
      · subst e
        simp [hb]
      · have : d < k + 1 ↔ d < k := by omega
        simp [this]

/-- A row of sprite bits changes no register but VF, which becomes 1 if a bit lands on a pixel that is 1. -/
theorem State.reg_drawBits (cx cy : Byte) (r : Nat) (row : Byte) (k : Nat) (hk : k ≤ 8) (r' : Nibble) :
    (s.drawBits cx cy r row k).reg r' =
      if r' = 0xF ∧ ((List.range k).any fun j => spriteBit row j &&
        s.pixel (Fin.ofNat 32 (cy.toNat + r)) (Fin.ofNat 64 (cx.toNat + j))) = true then 1 else s.reg r' := by
  induction k with
  | zero => simp [State.drawBits]
  | succ k ih =>
    have ih := ih (by omega)
    have hpix : (s.drawBits cx cy r row k).pixel (Fin.ofNat 32 (cy.toNat + r)) (Fin.ofNat 64 (cx.toNat + k)) =
        s.pixel (Fin.ofNat 32 (cy.toNat + r)) (Fin.ofNat 64 (cx.toNat + k)) := by
      rw [State.pixel_drawBits _ _ _ _ _ _ (by omega), Fin.val_ofNat,
        show ((cx.toNat + k) % 64 + 64 - cx.toNat % 64) % 64 = k by omega]
      simp
    unfold State.drawBits
    dsimp only
    rw [List.range_succ, List.any_append, List.any_cons, List.any_nil, Bool.or_false]
    generalize (List.range k).any _ = before at *
    generalize Fin.ofNat 32 (cy.toNat + r) = R at *
    generalize Fin.ofNat 64 (cx.toNat + k) = C at *
    by_cases hb : spriteBit row k = true
    · rw [if_pos hb, State.reg_hitPixel, ih, hpix]
      generalize (0xF : Nibble) = f at *
      by_cases hv : r' = f <;> by_cases hp : s.pixel R C = true <;> simp [hv, hb, hp]
    · rw [if_neg hb, ih]
      simp [hb]

/-! ### Whole sprites (R131) -/

/-- The first `n` rows flip exactly the pixels the sprite covers. -/
theorem State.pixel_drawRows (cx cy : Byte) (n : Nat) (hn : n ≤ 16) (r : Fin 32) (c : Fin 64) :
    (s.drawRows cx cy n).pixel r c = (s.pixel r c ^^ s.spriteCovers cx cy n r c) := by
  induction n with
  | zero => simp [State.drawRows, State.spriteCovers]
  | succ n ih =>
    have ih := ih (by omega)
    unfold State.drawRows
    dsimp only
    have hm : ∀ a, (s.drawRows cx cy n).memRead a = s.memRead a := (s.drawRows_onlyChanges cx cy n) .mem (by decide)
    have hi : (s.drawRows cx cy n).i = s.i := (s.drawRows_onlyChanges cx cy n) .i (by decide)
    have he : (s.drawRows cx cy n).elementAddr n = s.elementAddr n := by simp [State.elementAddr, hi]
    rw [State.pixel_drawBits _ _ _ _ _ _ (le_refl 8), ih, hm, he]
    have hr := r.isLt
    have hrow : r = Fin.ofNat 32 (cy.toNat + n) ↔ (r.val + 32 - cy.toNat % 32) % 32 = n := by
      rw [Fin.ext_iff, Fin.val_ofNat]; omega
    simp only [State.spriteCovers, hrow, spriteBit]
    generalize (r.val + 32 - cy.toNat % 32) % 32 = d at *
    generalize (c.val + 64 - cx.toNat % 64) % 64 = e at *
    by_cases h : d = n
    · subst h; simp
    · have : d < n + 1 ↔ d < n := by omega
      simp [h, this]

/-- The first `n` rows change no register but VF. -/
theorem State.reg_drawRows_of_ne (cx cy : Byte) (n : Nat) (hn : n ≤ 16) {q : Nibble} (h : q ≠ 0xF) :
    (s.drawRows cx cy n).reg q = s.reg q := by
  induction n with
  | zero => rfl
  | succ n ih =>
    unfold State.drawRows
    dsimp only
    rw [State.reg_drawBits _ _ _ _ _ _ (le_refl 8), if_neg (fun e => h e.1), ih (by omega)]

/-- VF after the first `n` rows, from 0: 1 if a covered pixel was 1, else 0. -/
theorem State.flag_drawRows (cx cy : Byte) (n : Nat) (hn : n ≤ 16) (h0 : s.reg 0xF = 0) :
    ((∃ r c, s.spriteCovers cx cy n r c = true ∧ s.pixel r c = true) → (s.drawRows cx cy n).reg 0xF = 1) ∧
    ((∀ r c, s.spriteCovers cx cy n r c = true → s.pixel r c = false) → (s.drawRows cx cy n).reg 0xF = 0) := by
  induction n with
  | zero => exact ⟨by simp [State.spriteCovers], fun _ => h0⟩
  | succ n ih =>
    obtain ⟨i1, i0⟩ := ih (by omega)
    have hm : ∀ a, (s.drawRows cx cy n).memRead a = s.memRead a := (s.drawRows_onlyChanges cx cy n) .mem (by decide)
    have hi : (s.drawRows cx cy n).i = s.i := (s.drawRows_onlyChanges cx cy n) .i (by decide)
    have he : (s.drawRows cx cy n).elementAddr n = s.elementAddr n := by simp [State.elementAddr, hi]
    unfold State.drawRows
    dsimp only
    rw [State.reg_drawBits _ _ _ _ _ _ (le_refl 8), hm, he]
    simp only [s.pixel_drawRows cx cy n (by omega)]
    have cov : ∀ r c, s.spriteCovers cx cy (n+1) r c = true ↔ (s.spriteCovers cx cy n r c = true ∨
       ∃ j < 8, r = Fin.ofNat 32 (cy.toNat + n) ∧ c = Fin.ofNat 64 (cx.toNat + j) ∧ spriteBit (s.memRead (s.elementAddr n)) j = true) := by
      intro r c
      have hr := r.isLt
      have hc := c.isLt
      have hrow : r = Fin.ofNat 32 (cy.toNat + n) ↔ (r.val + 32 - cy.toNat % 32) % 32 = n := by
        rw [Fin.ext_iff, Fin.val_ofNat]; omega
      have hcol : ∀ j < 8, (c = Fin.ofNat 64 (cx.toNat + j) ↔ (c.val + 64 - cx.toNat % 64) % 64 = j) := by
        intro j hj
        rw [Fin.ext_iff, Fin.val_ofNat]; omega
      simp only [State.spriteCovers, hrow, spriteBit, Bool.and_eq_true, decide_eq_true_eq]
      constructor
      · rintro ⟨⟨a, b⟩, g⟩
        by_cases hd : (r.val + 32 - cy.toNat % 32) % 32 = n
        · right; exact ⟨_, b, hd, (hcol _ b).2 rfl, by rw [← hd]; exact g⟩
        · left; exact ⟨⟨by omega, b⟩, g⟩
      · rintro (⟨⟨a, b⟩, g⟩ | ⟨j, hj, hd, hcj, g⟩)
        · exact ⟨⟨by omega, b⟩, g⟩
        · have := (hcol j hj).1 hcj
          rw [this, hd]; exact ⟨⟨by omega, hj⟩, g⟩
    have ncov : ∀ j < 8, s.spriteCovers cx cy n (Fin.ofNat 32 (cy.toNat + n)) (Fin.ofNat 64 (cx.toNat + j)) = false := by
      intro j hj
      simp only [State.spriteCovers, Fin.val_ofNat]
      have : ((cy.toNat + n) % 32 + 32 - cy.toNat % 32) % 32 = n := by omega
      simp [this]
    constructor
    · rintro ⟨r, c, hc, hp⟩
      rcases (cov r c).1 hc with h | ⟨j, hj, rfl, rfl, hb⟩
      · split
        · rfl
        · exact i1 ⟨r, c, h, hp⟩
      · rw [if_pos]
        refine ⟨trivial, List.any_eq_true.2 ⟨j, by simpa using hj, ?_⟩⟩
        rw [ncov j hj, hb, hp]; rfl
    · intro h
      rw [if_neg, i0 (fun r c hc => h r c ((cov r c).2 (.inl hc)))]
      rintro ⟨-, ha⟩
      obtain ⟨j, hj, hb⟩ := List.any_eq_true.1 ha
      simp only [List.mem_range] at hj
      simp only [Bool.and_eq_true] at hb
      rw [ncov j hj, h _ _ ((cov _ _).2 (.inr ⟨j, hj, rfl, rfl, hb.1⟩))] at hb
      simp at hb

/-! ### Memory as data, where no byte is stored -/

theorem State.mem_loadRegs (k : Nat) : (s.loadRegs k).mem = s.mem := by
  induction k with
  | zero => rfl
  | succ k ih => exact ih

theorem State.mem_hitPixel (r : Fin 32) (c : Fin 64) : (s.hitPixel r c).mem = s.mem := by
  unfold State.hitPixel
  split <;> rfl

theorem State.mem_drawBits (cx cy : Byte) (r : Nat) (row : Byte) (k : Nat) : (s.drawBits cx cy r row k).mem = s.mem := by
  induction k with
  | zero => rfl
  | succ k ih =>
    unfold State.drawBits
    dsimp only
    split
    · rw [State.mem_hitPixel, ih]
    · exact ih

theorem State.mem_drawRows (cx cy : Byte) (n : Nat) : (s.drawRows cx cy n).mem = s.mem := by
  induction n with
  | zero => rfl
  | succ n ih => rw [State.drawRows, State.mem_drawBits, ih]

end Sys2Proof.Machine
end

