-- ==== Sys2Proof/Laws/PerInstr.lean ====
section
/-! SUPPORT. Per-instruction statements. `OpcodeRow`: the word of an instruction lies in its row of the opcode map (R64). -/

namespace Sys2Proof.Laws.OpcodeRow

/-- `encode i & mask = match` (R64). -/
def Statement (i : Instr) : Prop := encode i &&& (opcodeRow i).1 = (opcodeRow i).2

theorem and_ones (op : Nibble) : op &&& 0xF#4 = op := by
  have : (0xF#4) = BitVec.allOnes 4 := rfl
  rw [this, BitVec.and_allOnes]

theorem nnn_row (op : Nibble) (nnn : Addr) : encodeNNN op nnn &&& encodeNNN 0xF#4 0x000#12 = encodeNNN op 0x000#12 := by
  show (op ++ nnn : BitVec (4 + 12)) &&& (0xF#4 ++ 0x000#12) = op ++ 0x000#12
  rw [BitVec.and_append]
  simp [and_ones]

theorem xnn_row (op x : Nibble) (nn : Byte) (mask : Byte) :
    encodeXNN op x nn &&& encodeXNN 0xF#4 0x0#4 mask = encodeXNN op 0x0#4 (nn &&& mask) := by
  show (op ++ x ++ nn : BitVec (4 + 4 + 8)) &&& (0xF#4 ++ 0x0#4 ++ mask) = op ++ 0x0#4 ++ (nn &&& mask)
  rw [BitVec.and_append, BitVec.and_append]
  simp [and_ones]

theorem xyn_row (op x y n mask : Nibble) :
    encodeXYN op x y n &&& encodeXYN 0xF#4 0x0#4 0x0#4 mask = encodeXYN op 0x0#4 0x0#4 (n &&& mask) := by
  show (op ++ x ++ y ++ n : BitVec (4 + 4 + 4 + 4)) &&& (0xF#4 ++ 0x0#4 ++ 0x0#4 ++ mask) = op ++ 0x0#4 ++ 0x0#4 ++ (n &&& mask)
  rw [BitVec.and_append, BitVec.and_append, BitVec.and_append]
  simp [and_ones]

theorem cls : Statement .cls := by unfold Statement; decide
theorem ret : Statement .ret := by unfold Statement; decide
theorem sys (nnn : Addr) : Statement (.sys nnn) := nnn_row 0x0#4 nnn
theorem jp (nnn : Addr) : Statement (.jp nnn) := nnn_row 0x1#4 nnn
theorem call (nnn : Addr) : Statement (.call nnn) := nnn_row 0x2#4 nnn
theorem seImm (x : Nibble) (nn : Byte) : Statement (.seImm x nn) := (xnn_row 0x3#4 x nn 0x00#8).trans (by simp [encodeXNN, opcodeRow])
theorem sneImm (x : Nibble) (nn : Byte) : Statement (.sneImm x nn) := (xnn_row 0x4#4 x nn 0x00#8).trans (by simp [encodeXNN, opcodeRow])
theorem seReg (x y : Nibble) : Statement (.seReg x y) := (xyn_row 0x5#4 x y 0x0#4 0xF#4).trans (by simp [encodeXYN, opcodeRow])
theorem ldImm (x : Nibble) (nn : Byte) : Statement (.ldImm x nn) := (xnn_row 0x6#4 x nn 0x00#8).trans (by simp [encodeXNN, opcodeRow])
theorem addImm (x : Nibble) (nn : Byte) : Statement (.addImm x nn) := (xnn_row 0x7#4 x nn 0x00#8).trans (by simp [encodeXNN, opcodeRow])
theorem ldReg (x y : Nibble) : Statement (.ldReg x y) := (xyn_row 0x8#4 x y 0x0#4 0xF#4).trans (by simp [encodeXYN, opcodeRow])
theorem orReg (x y : Nibble) : Statement (.orReg x y) := (xyn_row 0x8#4 x y 0x1#4 0xF#4).trans (by simp [encodeXYN, opcodeRow])
theorem andReg (x y : Nibble) : Statement (.andReg x y) := (xyn_row 0x8#4 x y 0x2#4 0xF#4).trans (by simp [encodeXYN, opcodeRow])
theorem xorReg (x y : Nibble) : Statement (.xorReg x y) := (xyn_row 0x8#4 x y 0x3#4 0xF#4).trans (by simp [encodeXYN, opcodeRow])
theorem addReg (x y : Nibble) : Statement (.addReg x y) := (xyn_row 0x8#4 x y 0x4#4 0xF#4).trans (by simp [encodeXYN, opcodeRow])
theorem subReg (x y : Nibble) : Statement (.subReg x y) := (xyn_row 0x8#4 x y 0x5#4 0xF#4).trans (by simp [encodeXYN, opcodeRow])
theorem shr (x y : Nibble) : Statement (.shr x y) := (xyn_row 0x8#4 x y 0x6#4 0xF#4).trans (by simp [encodeXYN, opcodeRow])
theorem subn (x y : Nibble) : Statement (.subn x y) := (xyn_row 0x8#4 x y 0x7#4 0xF#4).trans (by simp [encodeXYN, opcodeRow])
theorem shl (x y : Nibble) : Statement (.shl x y) := (xyn_row 0x8#4 x y 0xE#4 0xF#4).trans (by simp [encodeXYN, opcodeRow])
theorem sneReg (x y : Nibble) : Statement (.sneReg x y) := (xyn_row 0x9#4 x y 0x0#4 0xF#4).trans (by simp [encodeXYN, opcodeRow])
theorem ldI (nnn : Addr) : Statement (.ldI nnn) := nnn_row 0xA#4 nnn
theorem jpV0 (nnn : Addr) : Statement (.jpV0 nnn) := nnn_row 0xB#4 nnn
theorem rnd (x : Nibble) (nn : Byte) : Statement (.rnd x nn) := (xnn_row 0xC#4 x nn 0x00#8).trans (by simp [encodeXNN, opcodeRow])
theorem drw (x y n : Nibble) : Statement (.drw x y n) := (xyn_row 0xD#4 x y n 0x0#4).trans (by simp [encodeXYN, opcodeRow])
theorem skp (x : Nibble) : Statement (.skp x) := (xnn_row 0xE#4 x 0x9E#8 0xFF#8).trans (by simp [encodeXNN, opcodeRow])
theorem sknp (x : Nibble) : Statement (.sknp x) := (xnn_row 0xE#4 x 0xA1#8 0xFF#8).trans (by simp [encodeXNN, opcodeRow])
theorem ldVxDt (x : Nibble) : Statement (.ldVxDt x) := (xnn_row 0xF#4 x 0x07#8 0xFF#8).trans (by simp [encodeXNN, opcodeRow])
theorem ldVxK (x : Nibble) : Statement (.ldVxK x) := (xnn_row 0xF#4 x 0x0A#8 0xFF#8).trans (by simp [encodeXNN, opcodeRow])
theorem ldDtVx (x : Nibble) : Statement (.ldDtVx x) := (xnn_row 0xF#4 x 0x15#8 0xFF#8).trans (by simp [encodeXNN, opcodeRow])
theorem ldStVx (x : Nibble) : Statement (.ldStVx x) := (xnn_row 0xF#4 x 0x18#8 0xFF#8).trans (by simp [encodeXNN, opcodeRow])
theorem addI (x : Nibble) : Statement (.addI x) := (xnn_row 0xF#4 x 0x1E#8 0xFF#8).trans (by simp [encodeXNN, opcodeRow])
theorem ldF (x : Nibble) : Statement (.ldF x) := (xnn_row 0xF#4 x 0x29#8 0xFF#8).trans (by simp [encodeXNN, opcodeRow])
theorem ldB (x : Nibble) : Statement (.ldB x) := (xnn_row 0xF#4 x 0x33#8 0xFF#8).trans (by simp [encodeXNN, opcodeRow])
theorem store (x : Nibble) : Statement (.store x) := (xnn_row 0xF#4 x 0x55#8 0xFF#8).trans (by simp [encodeXNN, opcodeRow])
theorem load (x : Nibble) : Statement (.load x) := (xnn_row 0xF#4 x 0x65#8 0xFF#8).trans (by simp [encodeXNN, opcodeRow])

end Sys2Proof.Laws.OpcodeRow
end

