-- ==== Sys2Proof/Laws/Step.lean ====
section
/-! SUPPORT. What a step can do, once: the agent step its input names (R30, R33), and what a cycle is made of (R150). -/

namespace Sys2Proof.Machine

variable {s t : State}

/-- A step is the step of the agent its next input belongs to. -/
theorem step_of_input {input : Input} (h : s.nextInput = input) : step s = runInput input s.takeInput := by
  rw [step, h]

/-- A Running machine's cycle: fetch, advance, execute, count (R150). -/
theorem cycle_of_run (h : s.run = true) : cycle s = finishCycle (executeWord s.fetchWord s.advance) := by
  rw [cycle, if_pos h]

/-- A Halted machine takes no cycle (R151). -/
theorem cycle_of_halted (h : s.run = false) : cycle s = .next s := by
  rw [cycle, if_neg (by simp [h])]

/-- The end of a cycle adds the count to what the instruction left (R152). -/
theorem finishCycle_eq_next {r : Result} : finishCycle r = .next t ↔ ∃ u, r = .next u ∧ t = u.countCycle := by
  cases r <;> simp [finishCycle, eq_comm]

/-- A word that is an instruction is executed by its rule (R150). -/
theorem executeWord_of_decode {w : Word} {i : Instr} (h : decodeWord w = .ok i) : executeWord w s = exec i s := by
  simp [executeWord, h]

/-- A word that is none raises the anomaly (R161). -/
theorem executeWord_of_unknown {w : Word} {e : DecodeError} (h : decodeWord w = .error e) :
    executeWord w s = .next (s.raise .unknownOpcode w) := by
  simp [executeWord, h]

/-- The invariant looks at the parameters, the memory and the stack alone. -/
theorem State.Inv_of_same (h : s.Inv) (hc : t.config = s.config) (hm : t.mem = s.mem) (hs : t.stack = s.stack) : t.Inv := by
  unfold State.Inv State.sp at *
  rwa [hc, hm, hs]

/-- A memory write keeps the invariant (R43). -/
theorem State.Inv_memWrite (h : s.Inv) (a : Nat) (b : Byte) : (s.memWrite a b).Inv :=
  ⟨s.memWrite_wf a b h.1, h.2⟩

/-- `LOAD_ORIGIN` (R4): the default where none is given. -/
@[simp] theorem loadOrigin_none : loadOrigin none = 0x200 := rfl

/-- The origin given. -/
@[simp] theorem loadOrigin_some (origin : Nat) : loadOrigin (some origin) = origin := rfl

end Sys2Proof.Machine
end

