-- ==== Sys2Proof/Tests/Slice0.lean ====
section
/-! SUPPORT. Tests of one step each, their expected results the vectors of 95_test_vectors.md (named in each comment), the
well-formedness smoke test, and a witness for the hypotheses of every statement that has some. -/

namespace Sys2Proof.Tests

open Sys2Proof Sys2Proof.Machine

/-- The result is a next state that satisfies `p`. -/
def next (r : Result) (p : State → Bool) : Bool :=
  match r with
  | .next s => p s
  | .fault _ => false
  | .refused _ => false

/-- One step of `s` with the word `w` placed at `pc` ends in a state that satisfies `p`. -/
def runs (s : State) (w : Nat) (p : State → Bool) : Bool := next (step (s.withFetchWord 16 w)) p

/-- The fresh machine, Running. -/
def fresh : State := State.reset.setRun true

/-- The fresh machine with `V[0]` and `V[1]` set. -/
def regs01 (a b : Byte) : State := (fresh.setReg 0 a).setReg 1 b

/-- The fresh machine with `V[1]` and `V[2]` set. -/
def regs12 (a b : Byte) : State := (fresh.setReg 1 a).setReg 2 b

/-- The fresh machine with `SHIFT_SRC = Y`. -/
def shiftY (s : State) : State := { s with config := ⟨.y, s.config.fontTable⟩ }

/-- Every word of a list is unknown. -/
def unknown (words : List Word) : Bool := words.all fun w =>
  match decodeWord w with
  | .ok _ => false
  | .error _ => true

/-! ### Well-formedness: the one check, and terms it refuses -/

theorem test_wf_sys_is_not_cls : (Instr.sys 0x0E0).wellFormed = false := by decide
theorem test_wf_sys_is_not_ret : (Instr.sys 0x0EE).wellFormed = false := by decide
theorem test_wf_sys : (Instr.sys 0x0E1).wellFormed = true ∧ (Instr.sys 0x000).wellFormed = true := by decide

/-! ### Decoding: a word written out from the pattern of R64 for every constructor -/

theorem test_decode_family_0 : decodeTableWord 16 0b0000000011100000 = some .cls ∧
    decodeTableWord 16 0b0000000011101110 = some .ret ∧ decodeTableWord 16 0b0000111011100000 = some (.sys 0xEE0) := by decide
theorem test_decode_jumps : decodeTableWord 16 0b0001101010111100 = some (.jp 0xABC) ∧
    decodeTableWord 16 0b0010101010111100 = some (.call 0xABC) ∧
    decodeTableWord 16 0b1011101010111100 = some (.jpV0 0xABC) := by decide
theorem test_decode_skips : decodeTableWord 16 0b0011101001111111 = some (.seImm 0xA 0x7F) ∧
    decodeTableWord 16 0b0100101001111111 = some (.sneImm 0xA 0x7F) ∧
    decodeTableWord 16 0b0101101010110000 = some (.seReg 0xA 0xB) ∧
    decodeTableWord 16 0b1001101010110000 = some (.sneReg 0xA 0xB) := by decide
theorem test_decode_immediates : decodeTableWord 16 0b0110101000101100 = some (.ldImm 0xA 0x2C) ∧
    decodeTableWord 16 0b0111101000101100 = some (.addImm 0xA 0x2C) ∧
    decodeTableWord 16 0b1100001100001111 = some (.rnd 3 0x0F) := by decide
theorem test_decode_family_8 : decodeTableWord 16 0b1000101010110000 = some (.ldReg 0xA 0xB) ∧
    decodeTableWord 16 0b1000101010110001 = some (.orReg 0xA 0xB) ∧
    decodeTableWord 16 0b1000101010110010 = some (.andReg 0xA 0xB) ∧
    decodeTableWord 16 0b1000101010110011 = some (.xorReg 0xA 0xB) ∧
    decodeTableWord 16 0b1000101010110100 = some (.addReg 0xA 0xB) ∧
    decodeTableWord 16 0b1000101010110101 = some (.subReg 0xA 0xB) ∧
    decodeTableWord 16 0b1000101010110110 = some (.shr 0xA 0xB) ∧
    decodeTableWord 16 0b1000101010110111 = some (.subn 0xA 0xB) ∧
    decodeTableWord 16 0b1000101010111110 = some (.shl 0xA 0xB) := by decide
theorem test_decode_index_and_draw : decodeTableWord 16 0b1010001011110000 = some (.ldI 0x2F0) ∧
    decodeTableWord 16 0b1101000100100101 = some (.drw 1 2 5) := by decide
theorem test_decode_family_e : decodeTableWord 16 0b1110000110011110 = some (.skp 1) ∧
    decodeTableWord 16 0b1110000110100001 = some (.sknp 1) := by decide
theorem test_decode_family_f : decodeTableWord 16 0b1111000100000111 = some (.ldVxDt 1) ∧
    decodeTableWord 16 0b1111000100001010 = some (.ldVxK 1) ∧ decodeTableWord 16 0b1111000100010101 = some (.ldDtVx 1) ∧
    decodeTableWord 16 0b1111000100011000 = some (.ldStVx 1) ∧ decodeTableWord 16 0b1111000100011110 = some (.addI 1) ∧
    decodeTableWord 16 0b1111000100101001 = some (.ldF 1) ∧ decodeTableWord 16 0b1111000100110011 = some (.ldB 1) ∧
    decodeTableWord 16 0b1111000101010101 = some (.store 1) ∧
    decodeTableWord 16 0b1111000101100101 = some (.load 1) := by decide
/-- Section 2.1 and X1 to X10. -/
theorem test_decode_unknown : unknown [0x5AB1, 0x8AB8, 0x8ABF, 0x9ABF, 0xE19F, 0xE01E, 0xF175, 0xF000, 0xFFFF, 0x5121, 0x8128,
    0x812F, 0xF075, 0xF085] = true := by decide
theorem test_decode_too_short : decodeBytes [0x60] = .error .tooShort := by decide

/-! ### Control flow (95_test_vectors.md 2.2) -/

/-- CF2 -/
theorem test_sys_nothing : runs fresh 0x0EE0 (fun t => t.pc == 0x0202 && t.ev == [] && t.cycles == 1) = true := by decide
/-- CF3 -/
theorem test_jp_odd_target : runs fresh 0x1FFF (fun t => t.pc == 0x0FFF) = true := by decide
/-- CF5 -/
theorem test_call_pushes : runs (fresh.setPc 0x0FFE) 0x2ABC (fun t => t.stack == [0x1000] && t.pc == 0x0ABC) = true := by decide
/-- CF6 -/
theorem test_call_overflow : runs (fresh.setStack (List.replicate 16 0x0202)) 0x2200 (fun t =>
    t.pc == 0x0202 && t.stack == List.replicate 16 0x0202 && t.ev == [⟨.stackOverflow, 0x2200, 0x0200⟩]) = true := by decide
/-- CF7 -/
theorem test_ret_underflow : runs (fresh.setPc 0x0300) 0x00EE (fun t =>
    t.pc == 0x0302 && t.stack == [] && t.ev == [⟨.stackUnderflow, 0x00EE, 0x0300⟩]) = true := by decide
/-- CF8 -/
theorem test_ret_newest_first : runs ((fresh.setPc 0x0300).setStack [0x0206, 0x020A]) 0x00EE (fun t =>
    t.pc == 0x020A && t.stack == [0x0206]) = true := by decide
/-- CF9 -/
theorem test_jpV0_not_reduced : runs (fresh.setReg 0 0xFF) 0xBFFF (fun t => t.pc == 0x10FE) = true := by decide
/-- CF10 -/
theorem test_jpV0 : runs (fresh.setReg 0 0x04) 0xB300 (fun t => t.pc == 0x0304) = true := by decide
/-- CF11 -/
theorem test_seImm_skips : runs (fresh.setReg 3 0x2A) 0x332A (fun t => t.pc == 0x0204) = true := by decide
/-- CF14 -/
theorem test_seImm_wraps : runs (fresh.setPc 0xFFFE) 0x3000 (fun t => t.pc == 0x0002) = true := by decide
/-- CF15 -/
theorem test_sneImm_equal : runs (fresh.setReg 3 0x2A) 0x432A (fun t => t.pc == 0x0202) = true := by decide
/-- CF16 -/
theorem test_sneImm_skips : runs (fresh.setReg 3 0x2B) 0x432A (fun t => t.pc == 0x0204) = true := by decide
/-- CF17 -/
theorem test_seReg_same : runs fresh 0x5000 (fun t => t.pc == 0x0204) = true := by decide
/-- CF18 -/
theorem test_seReg_differ : runs (regs12 7 8) 0x5120 (fun t => t.pc == 0x0202) = true := by decide
/-- CF19 -/
theorem test_sneReg_same : runs fresh 0x9000 (fun t => t.pc == 0x0202) = true := by decide
/-- CF20 -/
theorem test_sneReg_differ : runs (regs12 7 8) 0x9120 (fun t => t.pc == 0x0204) = true := by decide

/-! ### Arithmetic and logic (95_test_vectors.md 2.3) -/

/-- A2 -/
theorem test_ldImm_vf : runs fresh 0x6FAB (fun t => t.reg 0xF == 0xAB) = true := by decide
/-- S2 -/
theorem test_addImm_no_flag : runs (fresh.setReg 0 0xFF) 0x7001 (fun t => t.reg 0 == 0 && t.reg 0xF == 0) = true := by decide
/-- A5 -/
theorem test_addImm_vf : runs (fresh.setReg 0xF 0xFF) 0x7F01 (fun t => t.reg 0xF == 0) = true := by decide
/-- A6 -/
theorem test_ldReg : runs (fresh.setReg 2 0x5A) 0x8120 (fun t => t.reg 1 == 0x5A && t.reg 2 == 0x5A) = true := by decide
/-- A7 -/
theorem test_or : runs ((regs12 0xF0 0x0F).setReg 0xF 1) 0x8121 (fun t => t.reg 1 == 0xFF && t.reg 0xF == 1) = true := by decide
/-- A8 -/
theorem test_and : runs (regs12 0xF0 0x3C) 0x8122 (fun t => t.reg 1 == 0x30) = true := by decide
/-- A9 -/
theorem test_xor : runs (regs12 0xF0 0x3C) 0x8123 (fun t => t.reg 1 == 0xCC) = true := by decide
/-- A12 -/
theorem test_addReg_carry : runs (regs01 200 100) 0x8014 (fun t => t.reg 0 == 44 && t.reg 0xF == 1) = true := by decide
/-- A14 -/
theorem test_addReg_vf : runs ((fresh.setReg 0xF 0xF0).setReg 1 0x20) 0x8F14 (fun t => t.reg 0xF == 1) = true := by decide
/-- S3 -/
theorem test_subReg_borrow : runs (regs01 5 10) 0x8015 (fun t => t.reg 0 == 251 && t.reg 0xF == 0) = true := by decide
/-- A16 -/
theorem test_subReg_equal : runs ((regs01 7 7).setReg 0xF 1) 0x8015 (fun t => t.reg 0 == 0 && t.reg 0xF == 0) = true := by decide
/-- A21 -/
theorem test_subn : runs (regs01 5 10) 0x8017 (fun t => t.reg 0 == 5 && t.reg 0xF == 1) = true := by decide
/-- A24 -/
theorem test_subn_vf : runs ((fresh.setReg 0xF 3).setReg 1 5) 0x8F17 (fun t => t.reg 0xF == 1) = true := by decide
/-- A25 -/
theorem test_shr_x : runs (regs12 0x05 0x08) 0x8126 (fun t => t.reg 1 == 0x02 && t.reg 2 == 0x08 && t.reg 0xF == 1) = true := by
  decide
/-- A26 -/
theorem test_shr_y : runs (shiftY (regs12 0x05 0x08)) 0x8126 (fun t =>
    t.reg 1 == 0x04 && t.reg 2 == 0x08 && t.reg 0xF == 0) = true := by decide
/-- A29 -/
theorem test_shl_x : runs (regs12 0x81 0x40) 0x812E (fun t => t.reg 1 == 0x02 && t.reg 0xF == 1) = true := by decide
/-- A30 -/
theorem test_shl_y : runs (shiftY (regs12 0x81 0x40)) 0x812E (fun t => t.reg 1 == 0x80 && t.reg 0xF == 0) = true := by decide
/-- A35, whatever is drawn: the draw counter moves on. -/
theorem test_rnd_counts_draw : runs fresh 0xC300 (fun t => t.draws == 1 && t.pc == 0x0202) = true := by decide

/-! ### Index register and memory (95_test_vectors.md 2.4) -/

/-- M1 -/
theorem test_ldI : runs (fresh.setI 0xFFFF) 0xA2F0 (fun t => t.i == 0x02F0) = true := by decide
/-- M3 -/
theorem test_addI_past_memory : runs ((fresh.setI 0x0FFF).setReg 2 1) 0xF21E (fun t =>
    t.i == 0x1000 && t.reg 0xF == 0) = true := by decide
/-- M5 -/
theorem test_addI_wraps : runs ((fresh.setI 0xFF80).setReg 2 0xFF) 0xF21E (fun t => t.i == 0x007F) = true := by decide
/-- M6 -/
theorem test_ldF : runs (fresh.setReg 4 0x0A) 0xF429 (fun t => t.i == 0x0032) = true := by decide
/-- M9 -/
theorem test_ldF_whole_byte : runs (fresh.setReg 0 0xFF) 0xF029 (fun t => t.i == 0x04FB) = true := by decide
/-- M10 -/
theorem test_ldB : runs ((fresh.setReg 0xA 254).setI 0x0300) 0xFA33 (fun t =>
    t.memRead 0x300 == 2 && t.memRead 0x301 == 5 && t.memRead 0x302 == 4) = true := by decide
/-- M12 -/
theorem test_ldB_wraps : runs ((fresh.setReg 0 255).setI 0x0FFE) 0xF033 (fun t =>
    t.memRead 0xFFE == 2 && t.memRead 0xFFF == 5 && t.memRead 0x000 == 5 && t.memRead 0x001 == 0x90) = true := by decide
/-- M15 -/
theorem test_store_one : runs ((regs01 0xAA 0xBB).setI 0x0400) 0xF055 (fun t =>
    t.memRead 0x400 == 0xAA && t.memRead 0x401 == 0 && t.i == 0x0400) = true := by decide
/-- M16 -/
theorem test_store_wraps : runs (((regs01 0x11 0x22).setReg 2 0x33).setI 0x0FFF) 0xF255 (fun t =>
    t.memRead 0xFFF == 0x11 && t.memRead 0x000 == 0x22 && t.memRead 0x001 == 0x33) = true := by decide
/-- M17 -/
theorem test_load : runs (((((fresh.memWrite 0x300 2).memWrite 0x301 5).memWrite 0x302 4).setI 0x0300).setReg 3 0x99) 0xF265
    (fun t => t.reg 0 == 2 && t.reg 1 == 5 && t.reg 2 == 4 && t.reg 3 == 0x99 && t.i == 0x0300) = true := by decide
/-- M18 -/
theorem test_load_wraps : runs ((fresh.memWrite 0xFFF 0x7E).setI 0x0FFF) 0xF165 (fun t =>
    t.reg 0 == 0x7E && t.reg 1 == 0xF0) = true := by decide

/-! ### Display (95_test_vectors.md 2.5 and S7) -/

/-- R130 -/
theorem test_cls : runs ((fresh.flipPixel 5 9).setReg 0xF 1) 0x00E0 (fun t => !t.pixel 5 9 && t.reg 0xF == 1) = true := by decide
/-- S7 -/
theorem test_drw_wraps : runs (((regs01 63 31).setI 0x0300).memWrite 0x300 0xFF) 0xD011 (fun t =>
    t.pixel 31 63 && t.pixel 31 0 && t.pixel 31 6 && !t.pixel 31 7 && !t.pixel 31 62 && !t.pixel 0 0 && t.reg 0xF == 0) = true := by
  decide
/-- P3, the second draw of the data row 0xC0 (S6). -/
theorem test_drw_collides : runs ((((regs01 62 31).setI 0x0300).memWrite 0x300 0xC0).flipPixel 31 63) 0xD011 (fun t =>
    t.pixel 31 62 && !t.pixel 31 63 && t.reg 0xF == 1) = true := by decide

/-! ### Keypad and timers (95_test_vectors.md 2.6) -/

/-- R140 with D7: the key is V[x] modulo 16. -/
theorem test_skp : runs ((fresh.setReg 2 0x15).setKey 5 true) 0xE29E (fun t => t.pc == 0x0204) = true := by decide
/-- K5 -/
theorem test_sknp : runs (fresh.setReg 2 5) 0xE2A1 (fun t => t.pc == 0x0204) = true := by decide
/-- K6 -/
theorem test_ldVxK_least : runs (((fresh.setKey 3 true).setKey 9 true).setPc 0x020A) 0xF60A (fun t =>
    t.reg 6 == 3 && t.pc == 0x020C) = true := by decide
/-- K10 -/
theorem test_ldVxK_waits : runs (fresh.setPc 0xFFFE) 0xF60A (fun t => t.pc == 0xFFFE && t.cycles == 1) = true := by decide
/-- K11 -/
theorem test_ldVxDt : runs (fresh.setDt 0x2C) 0xF507 (fun t => t.reg 5 == 0x2C && t.dt == 0x2C) = true := by decide
/-- K12 -/
theorem test_ldDtVx : runs (fresh.setDt 9) 0xF015 (fun t => t.dt == 0) = true := by decide
/-- K13 -/
theorem test_ldStVx : runs (fresh.setReg 1 0x10) 0xF118 (fun t => t.st == 0x10 && t.dt == 0) = true := by decide
/-- K15 -/
theorem test_timer_step : next (timerStep (fresh.setSt 0xFF)) (fun t => t.dt == 0 && t.st == 0xFE) = true := by decide
/-- K16 -/
theorem test_timer_halted : next (timerStep (State.reset.setDt 5)) (fun t => t.dt == 5) = true := by decide

/-! ### Anomalies, cycle, fetch, lifecycle (95_test_vectors.md 2.7, 2.8) -/

/-- X5 -/
theorem test_unknown_word : runs fresh 0xE19F (fun t =>
    t.pc == 0x0202 && t.cycles == 1 && t.ev == [⟨.unknownOpcode, 0xE19F, 0x0200⟩]) = true := by decide
/-- L2 -/
theorem test_fetch_wraps : next (cycle ((fresh.setPc 0x0FFF).memWrite 0xFFF 0x6A)) (fun t =>
    t.reg 0xA == 0xF0 && t.pc == 0x1001) = true := by decide
/-- L4 -/
theorem test_fetch_odd : next (cycle (((fresh.setPc 0x0201).memWrite 0x201 0x61).memWrite 0x202 0x09)) (fun t =>
    t.reg 1 == 9 && t.pc == 0x0203) = true := by decide
/-- L5 -/
theorem test_halted_no_cycle : next (step State.reset) (fun t => t.pc == 0x0200 && t.cycles == 0) = true := by decide
/-- L8 -/
theorem test_watchdog_at_limit : next (watchdogStep { fresh with limit := some 100, cycles := 100 }) (fun t => t.run) = true := by
  decide
/-- L9 -/
theorem test_watchdog_past_limit : next (watchdogStep { fresh with limit := some 100, cycles := 101 }) (fun t => !t.run) = true := by
  decide
/-- L11 -/
theorem test_stop_keeps_limit : next (hostStop (fresh.setLimit (some 7))) (fun t => !t.run && t.limit == some 7) = true := by decide
/-- L13 -/
theorem test_start_resumes : next (hostStart none ((State.reset.setPc 0x0234).setReg 3 9)) (fun t =>
    t.run && t.pc == 0x0234 && t.reg 3 == 9 && t.limit == none) = true := by decide

/-! ### Load, reset, keypad, snapshot (95_test_vectors.md 2.9, S10) -/

/-- B5 -/
theorem test_load_last_byte : next (hostLoad [0xAA] (some 0xFFF) State.reset) (fun t =>
    t.memRead 0xFFF == 0xAA && t.answer == some .ok) = true := by decide
/-- R48: with no origin given the bytes go to 0x200, through the machine's own step. -/
theorem test_load_default_origin : next (step (State.reset.setInputs [.load [0x60, 0x05] none])) (fun t =>
    t.memRead 0x200 == 0x60 && t.memRead 0x201 == 0x05 && t.memRead 0x1FF == 0 && t.answer == some .ok) = true := by decide
/-- B6 -/
theorem test_load_never_wraps : next (hostLoad [0xAA, 0xBB] (some 0xFFF) State.reset) (fun t =>
    t.mem == [] && t.answer == some .romTooLarge) = true := by decide
/-- B9 -/
theorem test_reset_fresh : next (hostReset ((((State.reset.setReg 3 9).memWrite 0x000 0x05).flipPixel 1 1).setLimit (some 100)))
    (fun t => t.reg 3 == 0 && t.memRead 0x000 == 0xF0 && !t.pixel 1 1 && t.limit == none && t.pc == 0x0200) = true := by decide
/-- S10 -/
theorem test_set_key_out_of_range : next (hostSetKey 16 true State.reset) (fun t =>
    t.key == State.reset.key && t.answer == some .keyOutOfRange) = true := by decide
/-- S10, the companion -/
theorem test_set_key_last : next (hostSetKey 15 true State.reset) (fun t => t.keyDown 0xF && t.answer == some .ok) = true := by decide
/-- R182 -/
theorem test_snapshot : next (hostSnapshot (fresh.setReg 3 9)) (fun t =>
    t.answer == some (.snapshot (fresh.setReg 3 9).snapshot) && t.pc == 0x0200) = true := by decide

/-- D17: refused by name. -/
theorem test_running_refuses : hostReset fresh = .refused .resetWhileRunning ∧
    hostLoad [] none fresh = .refused .loadWhileRunning ∧ hostStart none fresh = .refused .startWhileRunning := ⟨rfl, rfl, rfl⟩

/-! ### Witnesses: states and operands that meet the hypotheses of each statement, clause by clause -/

/-- The event of the unknown word 0xFFFF at 0x0200. -/
def unknownEvent : Event := ⟨.unknownOpcode, 0xFFFF, 0x0200⟩

/-- The machine one step before it runs `w`, its tick taken. -/
def holding (s : State) (w : Word) : State := s.placeWord w

theorem test_witness_DecodeOfEncodeIsInstruction : (Instr.sys 0x000).wellFormed = true ∧ (Instr.drw 0xF 0xF 0xF).wellFormed = true ∧
    (Instr.load 0xF).wellFormed = true := by decide
theorem test_witness_EncodeOfDecodeIsWord : decodeWord 0xFF65 = .ok (.load 0xF) ∧ decodeWord 0x0000 = .ok (.sys 0) := by decide
theorem test_witness_FamilyZeroWords : decodeWord 0x00E0 = .ok .cls ∧ decodeWord 0x00EE = .ok .ret ∧
    decodeWord 0x0FFF = .ok (.sys 0xFFF) := by decide
theorem test_witness_UnknownWordsExactly : unknown [0x5001, 0x500F, 0x8008, 0x800F, 0x9001, 0xE000, 0xE0FF, 0xF000, 0xF0FF] = true ∧
    unknown [0x5000] = false ∧ unknown [0x800E] = false ∧ unknown [0xE0A1] = false ∧ unknown [0xF065] = false := by decide
theorem test_witness_DecodeFollowsOpcodeMap : decodeWord 0x8FFE = .ok (.shl 0xF 0xF) ∧
    0x8FFE#16 &&& (opcodeRow (.shl 0 0)).1 = (opcodeRow (.shl 0 0)).2 ∧
    0x00E1#16 &&& (opcodeRow (.sys 0)).1 = (opcodeRow (.sys 0)).2 := by decide
theorem test_witness_StepRunsDecodedInstruction :
    ((fresh.withFetchWord 16 0x6A2C).nextInput = .cpuTick ∧ (fresh.withFetchWord 16 0x6A2C).run = true ∧
      decodeWord (fresh.withFetchWord 16 0x6A2C).fetchWord = .ok (.ldImm 0xA 0x2C)) ∧
    ((fresh.withFetchWord 16 0xFFFF).nextInput = .cpuTick ∧ (fresh.withFetchWord 16 0xFFFF).run = true ∧
      decodeWord (fresh.withFetchWord 16 0xFFFF).fetchWord = .error .unknownF) ∧
    (State.reset.nextInput = .cpuTick ∧ State.reset.run = false) := by decide
theorem test_witness_StepTakesNextInput : fresh.inputs = [] ∧ (fresh.setInputs [.cpuTick]).inputs = [.cpuTick] ∧
    (fresh.setInputs [.timerTick]).inputs = [.timerTick] ∧ (fresh.setInputs [.wdTick]).inputs = [.wdTick] ∧
    (fresh.setInputs [.load [0xAA] none]).inputs = [.load [0xAA] none] ∧ (fresh.setInputs [.reset]).inputs = [.reset] ∧
    (fresh.setInputs [.setKey 15 true]).inputs = [.setKey 15 true] ∧ (fresh.setInputs [.start none]).inputs = [.start none] ∧
    (fresh.setInputs [.stop]).inputs = [.stop] ∧ (fresh.setInputs [.snapshot]).inputs = [.snapshot] := by decide
theorem test_witness_UnknownWordIsNoOp : (holding fresh 0x5AB1).run = true ∧
    decodeWord (holding fresh 0x5AB1).fetchWord = .error .unknown5 := by decide
theorem test_witness_EveryCycleCountsOnce : (holding fresh 0x1200).run = true ∧
    next (cycle (holding fresh 0x1200)) (fun t => t.cycles == 1) = true := by decide
theorem test_witness_SysOnlyAdvances : (holding fresh 0x00E1).run = true ∧ (holding fresh 0x00E1).fetchWord = 0x0#4 ++ 0x0E1#12 ∧
    0x0E1#12 ≠ 0x0E0 ∧ 0x0E1#12 ≠ 0x0EE := by decide
theorem test_witness_CallPushesReturnAddress : fresh.sp < 16 ∧ (fresh.setStack (List.replicate 15 0x0202)).sp < 16 ∧
    (fresh.setStack (List.replicate 16 0x0202)).sp = 16 := by decide
theorem test_witness_ReturnPopsNewest : (fresh.setStack [0x0206]).stack = [] ++ [0x0206] ∧
    (fresh.setStack (List.replicate 16 0x0202)).stack = List.replicate 15 0x0202 ++ [0x0202] ∧ fresh.sp = 0 := by decide
theorem test_witness_CallThenReturnComesBack : (fresh.setStack (List.replicate 15 0x0202)).sp < 16 ∧
    next (exec (.call 0x300) (fresh.setStack (List.replicate 15 0x0202))) (fun t =>
      next (exec .ret t) (fun v => v.pc == 0x0200 && v.sp == 15)) = true := by decide
theorem test_witness_AddSetsCarry : (0 : Nibble) ≠ 0xF ∧ (regs01 200 55).reg 0 = 200 ∧
    next (exec (.addReg 0 1) (regs01 200 55)) (fun t => t.reg 0 == 255 && t.reg 0xF == 0) = true := by decide
theorem test_witness_ShiftsUnderBothSources : fresh.config.shiftSrc = .x ∧ (shiftY fresh).config.shiftSrc = .y ∧
    (regs12 0x81 0x40).shiftOperand 1 2 = 0x81 ∧ (shiftY (regs12 0x81 0x40)).shiftOperand 1 2 = 0x40 := by decide
theorem test_witness_FlagIsZeroOrOne : Instr.drw 0xF 0xF 0xF ∈ [Instr.addReg 0xF 0xF, .subReg 0xF 0xF, .shr 0xF 0xF, .subn 0xF 0xF,
    .shl 0xF 0xF, .drw 0xF 0xF 0xF] := by decide
theorem test_witness_RandomIsMasked : (0x0F : Byte).getLsbD 4 = false ∧ (0x0F : Byte).getLsbD 3 = true := by decide
theorem test_witness_IndexAboveMemoryOnlyByAdd : ((fresh.setI 0x0FFF).setReg 2 1).i.toNat ≤ 0x0FFF ∧
    next (exec (.addI 2) ((fresh.setI 0x0FFF).setReg 2 1)) (fun t => t.i == 0x1000) = true := by decide
theorem test_witness_DecimalDigitsStored : (∀ k < 3, 0x001 ≠ (fresh.setI 0x0FFE).elementAddr k) ∧
    (fresh.setI 0x0FFE).elementAddr 2 = 0 := by decide
theorem test_witness_RegistersStored : (0xF : Nibble) ≤ 0xF ∧ (0 : Nibble) ≤ 0 ∧
    (∀ k ≤ (0xF : Nibble).toNat, 0x00F ≠ (fresh.setI 0x0FFF).elementAddr k) ∧ (fresh.setI 0x0FFF).elementAddr 15 = 0x00E := by decide
theorem test_witness_RegistersLoaded : (0xE : Nibble) ≤ 0xE ∧ (0xE : Nibble) < 0xF := by decide
theorem test_witness_StoreThenLoadRestores : next (exec (.store 1) ((regs01 0x11 0x22).setI 0x0FFF)) (fun t =>
    t.i == 0x0FFF && next (exec (.load 1) (t.setReg 0 0)) (fun u => u.reg 0 == 0x11 && u.reg 1 == 0x22)) = true := by decide
theorem test_witness_SpriteDrawnExactly :
    (((regs01 63 31).memWrite 0 0xC0).spriteCovers 63 31 1 31 63 = true ∧
      ((regs01 63 31).memWrite 0 0xC0).pixel 31 63 = false) ∧
    ((((regs01 63 31).memWrite 0 0xC0).flipPixel 31 0).spriteCovers 63 31 1 31 0 = true ∧
      (((regs01 63 31).memWrite 0 0xC0).flipPixel 31 0).pixel 31 0 = true) ∧
    ((regs01 63 31).memWrite 0 0xC0).spriteCovers 63 31 1 0 63 = false := by decide
theorem test_witness_SpriteDrawnTwiceRestores : (0 : Nibble) ≠ 0xF ∧ (0xE : Nibble) ≠ 0xF ∧ fresh.pixel 0 0 = false ∧
    next (exec (.drw 0 1 1) fresh) (fun t => t.pixel 0 0 &&
      next (exec (.drw 0 1 1) t) (fun u => !u.pixel 0 0 && u.reg 0xF == 1)) = true := by decide
theorem test_witness_SpriteDrawnTwice_empty : next (exec (.drw 0 1 0) fresh) (fun t => !t.pixel 0 0 &&
    next (exec (.drw 0 1 0) t) (fun u => u.reg 0xF == 0)) = true := by decide
theorem test_witness_KeySkips : (0x5 : Nibble).toNat = ((fresh.setReg 2 0xF5).reg 2).toNat % 16 ∧
    ((fresh.setReg 2 0xF5).setKey 5 true).keyDown 5 = true ∧ fresh.keyDown 5 = false := by decide
theorem test_witness_KeyWaitTakesLeastKey : ((fresh.setKey 3 true).setKey 9 true).keyDown 3 = true ∧
    (∀ j : Nibble, j < 3 → ((fresh.setKey 3 true).setKey 9 true).keyDown j = false) ∧
    (fresh.setKey 15 true).keyDown 15 = true ∧ (∀ j : Nibble, j < 15 → (fresh.setKey 15 true).keyDown j = false) ∧
    (∀ k, fresh.keyDown k = false) := by decide
theorem test_witness_SoundTimerNeverRead : (∀ x, Instr.ldDtVx 1 ≠ .ldStVx x) ∧
    next (exec (.ldDtVx 1) (fresh.setSt 3)) (fun t => t.st == 3) = true :=
  ⟨fun _ => Instr.noConfusion, by decide⟩
theorem test_witness_TimerStepCountsDown : (fresh.setDt 1).run = true ∧ (fresh.setDt 0).run = true := by decide
theorem test_witness_TimersReachZeroAndStay : (fresh.setInputs [.timerTick, .timerTick]).run = true ∧
    (fresh.setInputs [.timerTick, .timerTick]).inputs = List.replicate 2 .timerTick := by decide
theorem test_witness_WatchdogHaltsPastLimit :
    (({ fresh with limit := some 100, cycles := 101 } : State).run = true ∧ 100 < 101) ∧
    (({ fresh with limit := some 100, cycles := 100 } : State).limit = some 100 ∧ 100 ≤ 100) ∧ fresh.limit = none ∧
    State.reset.run = false := by decide
theorem test_witness_HaltedMachineHolds : State.reset.run = false ∧ next (runInput (.start none) State.reset) (·.run) = true ∧
    next (runInput (.setKey 0 true) State.reset) (fun t => !t.run) = true := by decide
theorem test_witness_LoadCopiesVerbatim : 0x200 = (none : Option Nat).getD 0x200 ∧ 0xFFF = (some 0xFFF).getD 0x200 ∧
    4096 = (some 4096).getD 0x200 ∧ State.reset.run = false ∧ 0xFFF ≤ 4096 ∧ [(0xAA : Byte)].length ≤ 4096 - 0xFFF ∧
    ([] : List Byte).length ≤ 4096 - 4096 ∧ 0xFFE < 0xFFF := by decide
theorem test_witness_LoadTooLargeWritesNothing : 0x1000 = (some 0x1000).getD 0x200 ∧ State.reset.run = false ∧ ([0xAA, 0xBB] : List Byte).length > 4096 - (0xFFF : Int) ∧
    ([] : List Byte).length > 4096 - (0x1001 : Int) ∧ ([0xAA] : List Byte).length > 4096 - (0x1000 : Int) := by decide
theorem test_witness_SetKeyLatchesOneKey : 15 ≤ 15 ∧ 15 < 16 ∧ next (hostSetKey 15 true fresh) (fun t =>
    t.keyDown 15 && !t.keyDown 14) = true := by decide
theorem test_witness_StartAndStop : State.reset.run = false ∧ next (hostStart (some 0) State.reset) (fun t =>
    t.run && t.limit == some 0) = true ∧ next (hostStop State.reset) (fun t => !t.run) = true := by decide
theorem test_witness_ResetGivesFreshState : (State.reset.setReg 3 9).run = false ∧
    next (hostReset (State.reset.setReg 3 9)) (fun t => t.reg 3 == 0) = true := by decide
theorem test_witness_ResetTwiceIsResetOnce : (State.reset.setPc 0x345).run = false := by decide
theorem test_witness_RunningMachineRefusesCommands : fresh.run = true := by decide
theorem test_witness_FreshStateHasInvariant : next (hostReset State.reset) (fun t => t.mem == [] && t.stack == []) = true := by decide
theorem test_witness_StepKeepsInvariant : (fresh.withFetchWord 16 0x2200).Inv ∧
    ((fresh.withFetchWord 16 0x2200).setStack (List.replicate 15 0x0202)).Inv ∧
    ((fresh.withFetchWord 16 0x2200).setStack (List.replicate 16 0x0202)).Inv ∧
    runs fresh 0x2200 (fun t => t.sp == 1) = true := by decide
theorem test_witness_StepKeepsParameters : runs fresh 0x2200 (fun t => t.config == fresh.config) = true := by decide
theorem test_witness_FrameOfEveryInstruction : Field.mem ∉ mayChange (.load 0xF) ∧ Field.v ∉ mayChange (.store 0xF) ∧
    (0xF : Nibble) ∉ mayWriteRegs (.load 0xE) ∧ (0xE : Nibble) ∈ mayWriteRegs (.load 0xE) := by decide
theorem test_witness_ProgramCannotStopItself : (holding fresh 0xFFFF).run = true := by decide
theorem test_witness_CycleAppendsAtMostOneEvent : fresh.run = true ∧
    next (cycle (holding fresh 0xFFFF)) (fun t => t.ev == [unknownEvent]) = true ∧
    next (cycle (holding fresh 0x00EE)) (fun t => t.ev == [⟨.stackUnderflow, 0x00EE, 0x0200⟩]) = true ∧
    next (cycle (holding (fresh.setStack (List.replicate 16 0)) 0x2ABC)) (fun t =>
      t.ev == [⟨.stackOverflow, 0x2ABC, 0x0200⟩]) = true := by decide
theorem test_witness_EventsNeverInfluence : next (cycle (holding fresh 0xFFFF)) (fun t => t.ev == [unknownEvent]) = true ∧
    next (cycle { holding fresh 0xFFFF with ev := [unknownEvent] }) (fun t => t.ev == [unknownEvent, unknownEvent]) = true := by decide
theorem test_witness_SelfJumpStaysPut : (holding fresh 0x1200).run = true ∧
    (holding fresh 0x1200).pc.toNat = (0x200 : Addr).toNat ∧ (holding fresh 0x1200).fetchWord = 0x1#4 ++ 0x200#12 := by decide

end Sys2Proof.Tests
end

section
/-! Host commands on memory (20_memory.md): what a load that fits answers and leaves (R48). -/

namespace Sys2Proof.Machine

/-- An answer changes no field but `answer`. -/
theorem State.setAnswer_onlyChanges (s : State) (a : Option Answer) : s.onlyChanges (s.setAnswer a) [.answer] := by
  intro f hf
  cases f
  case answer => exact absurd List.mem_cons_self hf
  all_goals simp [State.sameField]

/-- Bytes written one after the other change no field but `mem`. -/
theorem State.memWriteAll_onlyChanges (s : State) (origin : Nat) (bytes : List Byte) :
    s.onlyChanges (s.memWriteAll origin bytes) [.mem] := by
  induction bytes generalizing s origin with
  | nil => exact s.onlyChanges_refl _
  | cons b rest ih => exact State.onlyChanges_trans (s.memWrite_onlyChanges origin b) (ih _ _)

/-- A byte inside the block written reads back. -/
theorem State.memRead_memWriteAll_inside (s : State) {origin : Nat} {bytes : List Byte}
    (fits : bytes.length + origin ≤ 4096) {k : Nat} (hk : k < bytes.length) :
    (s.memWriteAll origin bytes).memRead (origin + k) = bytes[k] := by
  rw [s.memRead_memWriteAll origin bytes fits _ (by omega), dif_pos ⟨by omega, by omega⟩]
  simp

/-- A byte before or after the block written stays. -/
theorem State.memRead_memWriteAll_outside (s : State) {origin : Nat} {bytes : List Byte}
    (fits : bytes.length + origin ≤ 4096) {a : Nat} (ha : a < 4096) (out : a < origin ∨ origin + bytes.length ≤ a) :
    (s.memWriteAll origin bytes).memRead a = s.memRead a := by
  rw [s.memRead_memWriteAll origin bytes fits a ha, dif_neg (by omega)]

/-- A load that fits, on a Halted machine, writes its bytes from the origin on and answers ok (R48). -/
theorem hostLoad_of_fits {s : State} {bytes : List Byte} {given : Option Nat} (halted : s.run = false)
    (fits : bytes.length + loadOrigin given ≤ 4096) :
    hostLoad bytes given s = .next ((s.memWriteAll (loadOrigin given) bytes).setAnswer (some .ok)) := by
  rw [hostLoad, if_neg (by simp [halted]), if_pos fits]

/-- Settles O45: the block written reads back byte by byte and memory outside it stays (`memRead_memWriteAll`); the frame is
that of the write followed by that of the answer. -/
theorem loadCopiesVerbatim : Obligations.LoadCopiesVerbatim := by
  rintro bytes given origin s rfl halted origin_le length_le
  have fits : bytes.length + loadOrigin given ≤ 4096 := by
    rw [loadOrigin]
    omega
  refine ⟨_, hostLoad_of_fits halted fits, State.setAnswer_answer _ _, fun k hk => ?_, fun a ha out => ?_, ?_⟩
  · exact (State.memRead_setAnswer ..).trans (s.memRead_memWriteAll_inside fits hk)
  · exact (State.memRead_setAnswer ..).trans (s.memRead_memWriteAll_outside fits ha out)
  · have writes := s.memWriteAll_onlyChanges (loadOrigin given) bytes
    have answers := (s.memWriteAll (loadOrigin given) bytes).setAnswer_onlyChanges (some .ok)
    exact State.onlyChanges_trans (State.onlyChanges_mono writes (by simp)) (State.onlyChanges_mono answers (by simp))

end Sys2Proof.Machine
end

section
/-! Family 0 of the decoder (30_encoding.md R65): CLS and RET are exact words, every other word of the family is SYS. -/

namespace Sys2Proof

/-- Under one first nibble, the `NNN` layout tells two addresses apart. -/
theorem encodeNNN_right_inj (op : Nibble) {a b : Addr} : encodeNNN op a = encodeNNN op b ↔ a = b := by
  refine ⟨fun same => ?_, congrArg (encodeNNN op)⟩
  simpa only [fieldNNN_encodeNNN] using congrArg fieldNNN same

/-- First nibble 0 picks family 0 (R63). -/
theorem decodeWord_of_fieldOp_zero {w : Word} (h : fieldOp w = 0x0#4) : decodeWord w = .ok (decodeFamily0 w) := by
  simp only [decodeWord, h]

/-- The two exact words of family 0 are told apart by their low 12 bits alone (R65). -/
theorem decodeFamily0_encodeNNN (nnn : Addr) : decodeFamily0 (encodeNNN 0x0#4 nnn) =
    if nnn = 0x0E0 then .cls else if nnn = 0x0EE then .ret else .sys nnn := by
  have cls_word : 0x00E0#16 = encodeNNN 0x0#4 0x0E0 := by decide
  have ret_word : 0x00EE#16 = encodeNNN 0x0#4 0x0EE := by decide
  simp only [decodeFamily0, cls_word, ret_word, encodeNNN_right_inj, fieldNNN_encodeNNN]

/-- What a word of family 0 decodes to, by its low 12 bits (R65). -/
theorem decodeWord_encodeNNN_zero (nnn : Addr) : decodeWord (encodeNNN 0x0#4 nnn) =
    .ok (if nnn = 0x0E0 then .cls else if nnn = 0x0EE then .ret else .sys nnn) := by
  rw [decodeWord_of_fieldOp_zero (fieldOp_encodeNNN _ _), decodeFamily0_encodeNNN]

end Sys2Proof

namespace Sys2Proof.Machine

/-- SYS is ignored: its rule is the identity (R65, R80). -/
theorem exec_sys (nnn : Addr) (s : State) : exec (.sys nnn) s = .next s := rfl

/-- Settles O4: the word `0nnn` is the `NNN` layout of first nibble 0, which decodes by its low 12 bits
(`decodeWord_encodeNNN_zero`), and SYS keeps the state. -/
theorem familyZeroWords : Obligations.FamilyZeroWords :=
  fun nnn => ⟨decodeWord_encodeNNN_zero nnn, exec_sys nnn⟩

end Sys2Proof.Machine
end

section
/-! The decoder undoes the encoder (30_encoding.md R63, R64): every clause that says what the word of a row decodes to
is a case of it. -/

namespace Sys2Proof

/-- First nibble F picks family F, the last arm (R63, R68). -/
theorem decodeWord_of_fieldOp_fifteen {w : Word} (h : fieldOp w = 0xF#4) : decodeWord w = decodeFamilyF w := by
  unfold decodeWord
  rw [h]
  rfl

/-- The word of a well-formed instruction decodes to it: its first nibble picks its family, and the fields of its layout are
its operands (R61, R63). -/
theorem decodeWord_encode (i : Instr) (wf : i.wellFormed = true) : decodeWord (encode i) = .ok i := by
  cases i with
  | cls => exact decodeWord_encodeNNN_zero 0x0E0
  | ret => exact decodeWord_encodeNNN_zero 0x0EE
  | sys nnn =>
    obtain ⟨not_cls, not_ret⟩ : nnn ≠ 0x0E0 ∧ nnn ≠ 0x0EE := by simpa [Instr.wellFormed] using wf
    rw [encode, decodeWord_encodeNNN_zero, if_neg not_cls, if_neg not_ret]
  | jp | call | ldI | jpV0 => simp only [encode, decodeWord, fieldOp_encodeNNN, fieldNNN_encodeNNN]
  | seImm | sneImm | ldImm | addImm | rnd =>
    simp only [encode, decodeWord, fieldOp_encodeXNN, fieldX_encodeXNN, fieldNN_encodeXNN]
  | skp | sknp =>
    simp only [encode, decodeWord, decodeFamilyE, fieldOp_encodeXNN, fieldX_encodeXNN, fieldNN_encodeXNN]
  | ldVxDt | ldVxK | ldDtVx | ldStVx | addI | ldF | ldB | store | load =>
    rw [encode, decodeWord_of_fieldOp_fifteen (fieldOp_encodeXNN _ _ _)]
    simp only [decodeFamilyF, fieldX_encodeXNN, fieldNN_encodeXNN]
  | seReg | sneReg | drw =>
    simp only [encode, decodeWord, fieldOp_encodeXYN, fieldX_encodeXYN, fieldY_encodeXYN, fieldN_encodeXYN, if_true]
  | ldReg | orReg | andReg | xorReg | addReg | subReg | shr | subn | shl =>
    simp only [encode, decodeWord, decodeFamily8, fieldOp_encodeXYN, fieldX_encodeXYN, fieldY_encodeXYN, fieldN_encodeXYN]

end Sys2Proof
end

section
/-! Control flow (40_control_flow.md R81 to R88): frames of the writes to `pc` and the stack, the values they are given, and
what each instruction answers. -/

namespace Sys2Proof.Machine

/-! ### Frames -/

/-- A write to `pc` changes no other field. -/
theorem State.setPc_onlyChanges (s : State) (x : Word) : s.onlyChanges (s.setPc x) [.pc] := by
  intro f hf
  cases f
  case pc => exact absurd List.mem_cons_self hf
  all_goals simp [State.sameField]

/-- A write to the stack changes no other field. -/
theorem State.setStack_onlyChanges (s : State) (x : List Word) : s.onlyChanges (s.setStack x) [.stack] := by
  intro f hf
  cases f
  case stack => exact absurd List.mem_cons_self hf
  all_goals simp [State.sameField]

/-- A push or pop with its jump changes the stack and `pc` alone. -/
theorem State.setStack_setPc_onlyChanges (s : State) (x : List Word) (target : Word) :
    s.onlyChanges ((s.setStack x).setPc target) [.stack, .pc] :=
  State.onlyChanges_trans (State.onlyChanges_mono (s.setStack_onlyChanges x) (by simp))
    (State.onlyChanges_mono ((s.setStack x).setPc_onlyChanges target) (by simp))

/-! ### Jump targets (R82, R88) -/

/-- Zero-extension keeps the value of an address (R62). -/
theorem zextAddr_toNat (nnn : Addr) : (zextAddr nnn).toNat = nnn.toNat :=
  BitVec.toNat_setWidth_of_le (by decide)

/-- Zero-extension keeps the value of a byte (R62). -/
theorem zextByte_toNat (b : Byte) : (zextByte b).toNat = b.toNat :=
  BitVec.toNat_setWidth_of_le (by decide)

/-- A byte and an address add up to at most 0x10FE, so their 16-bit sum does not wrap (R88). -/
theorem zextByte_add_zextAddr_toNat (b : Byte) (nnn : Addr) :
    (zextByte b + zextAddr nnn).toNat = b.toNat + nnn.toNat := by
  have b_lt := b.isLt
  have nnn_lt := nnn.isLt
  rw [BitVec.toNat_add_of_lt (by rw [zextByte_toNat, zextAddr_toNat]; omega), zextByte_toNat, zextAddr_toNat]

/-! ### What each instruction answers -/

theorem exec_jp (nnn : Addr) (s : State) : exec (.jp nnn) s = .next (s.setPc (zextAddr nnn)) := rfl

theorem exec_jpV0 (nnn : Addr) (s : State) :
    exec (.jpV0 nnn) s = .next (s.setPc (zextByte (s.reg 0) + zextAddr nnn)) := rfl

theorem exec_seImm (x : Nibble) (nn : Byte) (s : State) : exec (.seImm x nn) s = .next (s.skipIf (s.reg x == nn)) := rfl

theorem exec_sneImm (x : Nibble) (nn : Byte) (s : State) : exec (.sneImm x nn) s = .next (s.skipIf (s.reg x != nn)) := rfl

theorem exec_seReg (x y : Nibble) (s : State) : exec (.seReg x y) s = .next (s.skipIf (s.reg x == s.reg y)) := rfl

theorem exec_sneReg (x y : Nibble) (s : State) : exec (.sneReg x y) s = .next (s.skipIf (s.reg x != s.reg y)) := rfl

/-- CALL with room on the stack pushes the advanced `pc` and jumps (R83). -/
theorem exec_call_of_room {s : State} (room : s.sp < 16) (nnn : Addr) :
    exec (.call nnn) s = .next ((s.setStack (s.stack ++ [s.pc])).setPc (zextAddr nnn)) :=
  if_pos room

/-- CALL without room only raises the anomaly (R83). -/
theorem exec_call_of_full {s : State} (full : 16 ≤ s.sp) (nnn : Addr) :
    exec (.call nnn) s = .next (s.raise .stackOverflow (encode (.call nnn))) :=
  if_neg (Nat.not_lt.mpr full)

/-- RET moves the newest entry into `pc` (R81). -/
theorem exec_ret_of_stack {s : State} {older : List Word} {newest : Word} (h : s.stack = older ++ [newest]) :
    exec .ret s = .next ((s.setStack older).setPc newest) := by
  show execRet s = _
  simp [execRet, h]

/-- RET on an empty stack only raises the anomaly (R81). -/
theorem exec_ret_of_empty {s : State} (empty : s.stack = []) :
    exec .ret s = .next (s.raise .stackUnderflow (encode .ret)) := by
  show execRet s = _
  simp [execRet, empty]

/-! ### Skips (R84 to R87, R90) -/

/-- A skip on equality adds 2 exactly when the two bytes have the same unsigned value. -/
theorem State.skipIf_beq_pc (s : State) (a b : Byte) :
    (s.skipIf (a == b)).pc = if a.toNat = b.toNat then s.pc + 2 else s.pc := by
  simp only [State.skipIf_pc, beq_iff_eq, BitVec.toNat_inj]

/-- A skip on inequality is the complement: it adds 2 exactly when the two unsigned values differ. -/
theorem State.skipIf_bne_pc (s : State) (a b : Byte) :
    (s.skipIf (a != b)).pc = if a.toNat = b.toNat then s.pc else s.pc + 2 := by
  simp only [State.skipIf_pc, bne_iff_ne, ne_eq, ite_not, BitVec.toNat_inj]

/-! ### The statements -/

/-- Settles O14: each jump writes `pc` alone, and neither target wraps at 16 bits. -/
theorem jumpTargets : Obligations.JumpTargets := by
  intro nnn s
  refine ⟨⟨decodeWord_encode (.jp nnn) rfl, _, exec_jp nnn s, ?_, s.setPc_onlyChanges _⟩,
    decodeWord_encode (.jpV0 nnn) rfl, _, exec_jpV0 nnn s, ?_, s.setPc_onlyChanges _⟩
  · exact zextAddr_toNat nnn
  · exact zextByte_add_zextAddr_toNat (s.reg 0) nnn

/-- Settles O15: by whether the stack has room. -/
theorem callPushesReturnAddress : Obligations.CallPushesReturnAddress := by
  intro nnn s
  refine ⟨decodeWord_encode (.call nnn) rfl, fun room => ?_, fun full => ?_⟩
  · exact ⟨_, exec_call_of_room room nnn, rfl, List.length_append, zextAddr_toNat nnn, s.setStack_setPc_onlyChanges _ _⟩
  · exact ⟨_, exec_call_of_full full.ge nnn, s.raise_ev _ _, s.raise_onlyChanges _ _⟩

/-- Settles O16: by whether the stack has a newest entry. -/
theorem returnPopsNewest : Obligations.ReturnPopsNewest := by
  refine ⟨decodeWord_encode .ret rfl, fun s older newest pushed => ?_, fun s empty => ?_⟩
  · exact ⟨_, exec_ret_of_stack pushed, rfl, rfl, s.setStack_setPc_onlyChanges _ _⟩
  · exact ⟨_, exec_ret_of_empty (List.length_eq_zero_iff.mp empty), s.raise_ev _ _, s.raise_onlyChanges _ _⟩

/-- Settles O18: each of the four is a skip on equality or on inequality of two bytes. -/
theorem skipsFollowTheirComparison : Obligations.SkipsFollowTheirComparison := by
  intro x y nn s
  refine ⟨?seImm, ?sneImm, ?seReg, ?sneReg⟩
  case seImm =>
    exact ⟨decodeWord_encode (.seImm x nn) rfl, _, exec_seImm x nn s, s.skipIf_beq_pc _ _, s.skipIf_onlyChanges _⟩
  case sneImm =>
    exact ⟨decodeWord_encode (.sneImm x nn) rfl, _, exec_sneImm x nn s, s.skipIf_bne_pc _ _, s.skipIf_onlyChanges _⟩
  case seReg =>
    exact ⟨decodeWord_encode (.seReg x y) rfl, _, exec_seReg x y s, s.skipIf_beq_pc _ _, s.skipIf_onlyChanges _⟩
  case sneReg =>
    exact ⟨decodeWord_encode (.sneReg x y) rfl, _, exec_sneReg x y s, s.skipIf_bne_pc _ _, s.skipIf_onlyChanges _⟩

end Sys2Proof.Machine
end

section
/-! Loads and arithmetic (41_alu.md R101 to R103, R107, R108, R110): which registers a write keeps, the values written, and what
each instruction answers. -/

namespace Sys2Proof.Machine

/-! ### Registers kept -/

/-- A register write keeps every other register (R10). -/
theorem State.setReg_regsKeptBut (s : State) (r : Nibble) (b : Byte) : s.regsKeptBut (s.setReg r b) [r] :=
  fun _ kept => s.reg_setReg_of_ne b (List.ne_of_not_mem_cons kept)

/-- A result with its flag keeps every register but the destination and VF (R11). -/
theorem State.setRegThenFlag_regsKeptBut (s : State) (x : Nibble) (b : Byte) (f : Bool) :
    s.regsKeptBut (s.setRegThenFlag x b f) [x, 0xF] := by
  intro r kept
  obtain ⟨not_dest, not_vf⟩ : r ≠ x ∧ r ≠ 0xF := by simpa using kept
  rw [State.reg_setRegThenFlag, if_neg not_vf, if_neg not_dest]

/-! ### Result and flag (R11 (c), R100) -/

/-- The flag is what stays in VF, also where VF is the destination. -/
theorem State.reg_setRegThenFlag_vf (s : State) (x : Nibble) (b : Byte) (f : Bool) :
    (s.setRegThenFlag x b f).reg 0xF = flagByte f := by
  rw [State.reg_setRegThenFlag, if_pos rfl]

/-- A destination other than VF holds the result. -/
theorem State.reg_setRegThenFlag_dest (s : State) {x : Nibble} (not_vf : x ≠ 0xF) (b : Byte) (f : Bool) :
    (s.setRegThenFlag x b f).reg x = b := by
  rw [State.reg_setRegThenFlag, if_neg not_vf, if_pos rfl]

/-- The carry flag is 1 exactly when the unmasked sum exceeds 255 (R107). -/
theorem flagByte_carryOut (a b : Byte) : flagByte (carryOut a b) = if a.toNat + b.toNat > 255 then 1 else 0 := by
  simp only [flagByte, carryOut, decide_eq_true_eq, gt_iff_lt]

/-- The subtraction's flag is 1 exactly when the minuend is strictly greater (R108, R110). -/
theorem flagByte_noBorrow (minuend subtrahend : Byte) :
    flagByte (noBorrow minuend subtrahend) = if minuend.toNat > subtrahend.toNat then 1 else 0 := by
  simp only [flagByte, noBorrow, decide_eq_true_eq, gt_iff_lt]

/-- The difference of two bytes is the mathematical one modulo 256, also where that is negative (R108, R110). -/
theorem byte_sub_toNat (minuend subtrahend : Byte) :
    ((minuend - subtrahend).toNat : Int) = (minuend.toNat - subtrahend.toNat : Int) % 256 := by
  have subtrahend_lt := subtrahend.isLt
  rw [BitVec.toNat_sub]
  omega

/-! ### What each instruction answers -/

theorem exec_ldImm (x : Nibble) (nn : Byte) (s : State) : exec (.ldImm x nn) s = .next (s.setReg x nn) := rfl

theorem exec_addImm (x : Nibble) (nn : Byte) (s : State) : exec (.addImm x nn) s = .next (s.setReg x (s.reg x + nn)) := rfl

theorem exec_ldReg (x y : Nibble) (s : State) : exec (.ldReg x y) s = .next (s.setReg x (s.reg y)) := rfl

theorem exec_addReg (x y : Nibble) (s : State) : exec (.addReg x y) s =
    .next (s.setRegThenFlag x (s.reg x + s.reg y) (carryOut (s.reg x) (s.reg y))) := rfl

theorem exec_subReg (x y : Nibble) (s : State) : exec (.subReg x y) s =
    .next (s.setRegThenFlag x (s.reg x - s.reg y) (noBorrow (s.reg x) (s.reg y))) := rfl

theorem exec_subn (x y : Nibble) (s : State) : exec (.subn x y) s =
    .next (s.setRegThenFlag x (s.reg y - s.reg x) (noBorrow (s.reg y) (s.reg x))) := rfl

/-- What a subtraction leaves, whichever operand is the minuend (R108, R110). -/
theorem State.setRegThenFlag_sub (s : State) (x : Nibble) (minuend subtrahend : Byte) {t : State}
    (written : t = s.setRegThenFlag x (minuend - subtrahend) (noBorrow minuend subtrahend)) :
    t.reg 0xF = (if minuend.toNat > subtrahend.toNat then 1 else 0) ∧
      (x ≠ 0xF → ((t.reg x).toNat : Int) = (minuend.toNat - subtrahend.toNat : Int) % 256) ∧
      s.regsKeptBut t [x, 0xF] ∧ s.onlyChanges t [.v] := by
  subst written
  refine ⟨?_, fun not_vf => ?_, s.setRegThenFlag_regsKeptBut _ _ _, s.setRegThenFlag_onlyChanges _ _ _⟩
  · rw [State.reg_setRegThenFlag_vf, flagByte_noBorrow]
  · rw [s.reg_setRegThenFlag_dest not_vf, byte_sub_toNat]

/-! ### The statements -/

/-- Settles O19: each of the three is one register write, of `nn`, of a sum modulo 256 or of `V[y]`. -/
theorem loadAndAddImmediate : Obligations.LoadAndAddImmediate := by
  intro x y nn s
  have frame (b : Byte) : s.regsKeptBut (s.setReg x b) [x] ∧ s.onlyChanges (s.setReg x b) [.v] :=
    ⟨s.setReg_regsKeptBut x b, s.setReg_onlyChanges x b⟩
  refine ⟨?ldImm, ?addImm, ?ldReg⟩
  case ldImm =>
    exact ⟨decodeWord_encode (.ldImm x nn) rfl, _, exec_ldImm x nn s, s.reg_setReg_self x _, frame _⟩
  case addImm =>
    refine ⟨decodeWord_encode (.addImm x nn) rfl, _, exec_addImm x nn s, ?_, frame _⟩
    rw [State.reg_setReg_self]
    exact BitVec.toNat_add _ _
  case ldReg =>
    exact ⟨decodeWord_encode (.ldReg x y) rfl, _, exec_ldReg x y s, s.reg_setReg_self x _, frame _⟩

/-- Settles O21: the sum modulo 256 is written first and the carry of the old values second, so VF always ends as the carry. -/
theorem addSetsCarry : Obligations.AddSetsCarry := by
  intro x y s
  refine ⟨decodeWord_encode (.addReg x y) rfl, _, exec_addReg x y s, ?_, fun not_vf => ?_,
    s.setRegThenFlag_regsKeptBut _ _ _, s.setRegThenFlag_onlyChanges _ _ _⟩
  · rw [State.reg_setRegThenFlag_vf, flagByte_carryOut]
  · rw [s.reg_setRegThenFlag_dest not_vf]
    exact BitVec.toNat_add _ _

/-- Settles O22: SUB and SUBN are one subtraction with the operands exchanged (`State.setRegThenFlag_sub`). -/
theorem subtractionsSetNotBorrow : Obligations.SubtractionsSetNotBorrow := by
  intro x y s
  refine ⟨?subReg, ?subn⟩
  case subReg =>
    exact ⟨decodeWord_encode (.subReg x y) rfl, _, exec_subReg x y s, s.setRegThenFlag_sub x (s.reg x) (s.reg y) rfl⟩
  case subn =>
    exact ⟨decodeWord_encode (.subn x y) rfl, _, exec_subn x y s, s.setRegThenFlag_sub x (s.reg y) (s.reg x) rfl⟩

end Sys2Proof.Machine
end

section
/-! Index register and memory (42_index_and_memory.md R120, R122, R123): the values `I` is given, the bytes at the elements of an
access, and what each instruction answers. -/

namespace Sys2Proof.Machine

/-! ### The index register -/

/-- A write to `I` changes no other field. -/
theorem State.setI_onlyChanges (s : State) (x : Word) : s.onlyChanges (s.setI x) [.i] := by
  intro f hf
  cases f
  case i => exact absurd List.mem_cons_self hf
  all_goals simp [State.sameField]

/-- Five times a byte is at most 0x04FB, so a glyph's address does not wrap (R122). -/
theorem glyphAddr_toNat (b : Byte) : (glyphAddr b).toNat = 5 * b.toNat := by
  have b_lt := b.isLt
  exact (BitVec.toNat_ofNat _ _).trans (Nat.mod_eq_of_lt (by omega))

/-! ### Elements of an access (R126) -/

theorem State.elementAddr_lt (s : State) (k : Nat) : s.elementAddr k < 4096 :=
  Nat.mod_lt _ (by decide)

/-- Elements less than 4096 apart do not share an address, also where the access wraps. -/
theorem State.elementAddr_ne (s : State) {j k : Nat} (below : j < k) (near : k < 4096) :
    s.elementAddr j ≠ s.elementAddr k := by
  simp only [State.elementAddr]
  omega

theorem State.memRead_memWrite_self (s : State) (a : Nat) (b : Byte) : (s.memWrite a b).memRead a = b := by
  rw [State.memRead_memWrite, if_pos rfl]

/-- A write keeps the byte at every other address of the address space. -/
theorem State.memRead_memWrite_of_ne (s : State) {a a' : Nat} (b : Byte) (ha : a < 4096) (ha' : a' < 4096) (ne : a' ≠ a) :
    (s.memWrite a b).memRead a' = s.memRead a' := by
  rw [State.memRead_memWrite, Nat.mod_eq_of_lt ha, Nat.mod_eq_of_lt ha', if_neg ne]

/-! ### Decimal digits (R123) -/

theorem hundreds_toNat (b : Byte) : (hundreds b).toNat = b.toNat / 100 := by
  have b_lt := b.isLt
  exact (BitVec.toNat_ofNat _ _).trans (Nat.mod_eq_of_lt (by omega))

theorem tens_toNat (b : Byte) : (tens b).toNat = b.toNat / 10 % 10 :=
  (BitVec.toNat_ofNat _ _).trans (Nat.mod_eq_of_lt (by omega))

theorem ones_toNat (b : Byte) : (ones b).toNat = b.toNat % 10 :=
  (BitVec.toNat_ofNat _ _).trans (Nat.mod_eq_of_lt (by omega))

/-! ### What each instruction answers -/

theorem exec_ldI (nnn : Addr) (s : State) : exec (.ldI nnn) s = .next (s.setI (zextAddr nnn)) := rfl

theorem exec_ldF (x : Nibble) (s : State) : exec (.ldF x) s = .next (s.setI (glyphAddr (s.reg x))) := rfl

/-- Three bytes written one after the other at the first three elements from `I`. -/
def State.writeThree (s : State) (b₀ b₁ b₂ : Byte) : State :=
  ((s.memWrite (s.elementAddr 0) b₀).memWrite (s.elementAddr 1) b₁).memWrite (s.elementAddr 2) b₂

theorem exec_ldB (x : Nibble) (s : State) :
    exec (.ldB x) s = .next (s.writeThree (hundreds (s.reg x)) (tens (s.reg x)) (ones (s.reg x))) := rfl

/-! ### Three bytes written -/

section
variable (s : State) (b₀ b₁ b₂ : Byte)

/-- The first byte outlives the two writes after it: their addresses are others. -/
theorem State.memRead_writeThree_zero : (s.writeThree b₀ b₁ b₂).memRead (s.elementAddr 0) = b₀ := by
  have ne_one := s.elementAddr_ne (j := 0) (k := 1) (by decide) (by decide)
  have ne_two := s.elementAddr_ne (j := 0) (k := 2) (by decide) (by decide)
  rw [State.writeThree, State.memRead_memWrite_of_ne _ _ (s.elementAddr_lt 2) (s.elementAddr_lt 0) ne_two,
    State.memRead_memWrite_of_ne _ _ (s.elementAddr_lt 1) (s.elementAddr_lt 0) ne_one, State.memRead_memWrite_self]

theorem State.memRead_writeThree_one : (s.writeThree b₀ b₁ b₂).memRead (s.elementAddr 1) = b₁ := by
  have ne_two := s.elementAddr_ne (j := 1) (k := 2) (by decide) (by decide)
  rw [State.writeThree, State.memRead_memWrite_of_ne _ _ (s.elementAddr_lt 2) (s.elementAddr_lt 1) ne_two,
    State.memRead_memWrite_self]

theorem State.memRead_writeThree_two : (s.writeThree b₀ b₁ b₂).memRead (s.elementAddr 2) = b₂ :=
  State.memRead_memWrite_self _ _ _

/-- A byte at none of the three elements stays. -/
theorem State.memRead_writeThree_outside {a : Nat} (ha : a < 4096) (out : ∀ k < 3, a ≠ s.elementAddr k) :
    (s.writeThree b₀ b₁ b₂).memRead a = s.memRead a := by
  rw [State.writeThree, State.memRead_memWrite_of_ne _ _ (s.elementAddr_lt 2) ha (out 2 (by decide)),
    State.memRead_memWrite_of_ne _ _ (s.elementAddr_lt 1) ha (out 1 (by decide)),
    State.memRead_memWrite_of_ne _ _ (s.elementAddr_lt 0) ha (out 0 (by decide))]

theorem State.writeThree_onlyChanges : s.onlyChanges (s.writeThree b₀ b₁ b₂) [.mem] :=
  State.onlyChanges_trans (State.onlyChanges_trans (State.memWrite_onlyChanges _ _ _) (State.memWrite_onlyChanges _ _ _))
    (State.memWrite_onlyChanges _ _ _)

end

/-! ### The statements -/

/-- Settles O26: each of the two is one write to `I`, of a value that 16 bits hold. -/
theorem indexLoads : Obligations.IndexLoads := by
  intro nnn x s
  refine ⟨?ldI, ?ldF⟩
  case ldI =>
    exact ⟨decodeWord_encode (.ldI nnn) rfl, _, exec_ldI nnn s, zextAddr_toNat nnn, s.setI_onlyChanges _⟩
  case ldF =>
    exact ⟨decodeWord_encode (.ldF x) rfl, _, exec_ldF x s, glyphAddr_toNat (s.reg x), s.setI_onlyChanges _⟩

/-- Settles O29: three writes at distinct addresses, each of a digit that a byte holds. -/
theorem decimalDigitsStored : Obligations.DecimalDigitsStored := by
  intro x s
  refine ⟨decodeWord_encode (.ldB x) rfl, _, exec_ldB x s, ?hundreds, ?tens, ?ones, fun a ha out => ?others,
    s.writeThree_onlyChanges _ _ _⟩
  case hundreds => rw [State.memRead_writeThree_zero, hundreds_toNat]
  case tens => rw [State.memRead_writeThree_one, tens_toNat]
  case ones => rw [State.memRead_writeThree_two, ones_toNat]
  case others => exact s.memRead_writeThree_outside _ _ _ ha out

end Sys2Proof.Machine
end

section
/-! Keypad and timers (44_keypad_and_timers.md R142, R144, R145): frames of the timer writes, the key scan from the keys, and what
each instruction answers. -/

namespace Sys2Proof.Machine

/-! ### Frames -/

/-- A write to `DT` changes no other field. -/
theorem State.setDt_onlyChanges (s : State) (b : Byte) : s.onlyChanges (s.setDt b) [.dt] := by
  intro f hf
  cases f
  case dt => exact absurd List.mem_cons_self hf
  all_goals simp [State.sameField]

/-- A write to `ST` changes no other field. -/
theorem State.setSt_onlyChanges (s : State) (b : Byte) : s.onlyChanges (s.setSt b) [.st] := by
  intro f hf
  cases f
  case st => exact absurd List.mem_cons_self hf
  all_goals simp [State.sameField]

/-! ### The key scan (R142) -/

/-- The scan finds a pressed key below which none is pressed: it can stop neither before that key nor after it. -/
theorem State.leastKey_eq_some {s : State} {k : Nibble} (pressed : s.keyDown k = true)
    (least : ∀ j < k, s.keyDown j = false) : s.leastKey = some k.toNat := by
  cases found : s.leastKey with
  | none => exact absurd pressed (by simp [s.leastKey_none found k])
  | some m =>
    obtain ⟨m_lt, m_pressed, m_least⟩ := s.leastKey_some found
    have not_before : ¬ m < k.toNat := fun before =>
      absurd m_pressed (by simp [least (BitVec.ofNat 4 m) (by bv_omega)])
    have not_after : ¬ k.toNat < m := fun after =>
      absurd pressed (by simpa using m_least k.toNat after)
    rw [show m = k.toNat by omega]

/-- With no key pressed the scan finds none. -/
theorem State.leastKey_eq_none {s : State} (released : ∀ k, s.keyDown k = false) : s.leastKey = none := by
  cases found : s.leastKey with
  | none => rfl
  | some m =>
    obtain ⟨-, m_pressed, -⟩ := s.leastKey_some found
    exact absurd m_pressed (by simp [released])

/-- A byte holds every key's index. -/
theorem keyByte_toNat (k : Nibble) : (BitVec.ofNat 8 k.toNat).toNat = k.toNat := by
  have k_lt := k.isLt
  exact (BitVec.toNat_ofNat _ _).trans (Nat.mod_eq_of_lt (by omega))

/-! ### What each instruction answers -/

/-- With a key pressed, LD Vx, K writes the index of the least one (R142). -/
theorem exec_ldVxK_of_pressed {s : State} {k : Nat} (found : s.leastKey = some k) (x : Nibble) :
    exec (.ldVxK x) s = .next (s.setReg x (BitVec.ofNat 8 k)) := by
  show execLdVxK x s = _
  simp only [execLdVxK, found]

/-- With no key pressed, LD Vx, K goes back to itself (R142). -/
theorem exec_ldVxK_of_released {s : State} (found : s.leastKey = none) (x : Nibble) :
    exec (.ldVxK x) s = .next (s.setPc (s.pc - 2)) := by
  show execLdVxK x s = _
  simp only [execLdVxK, found]

theorem exec_ldDtVx (x : Nibble) (s : State) : exec (.ldDtVx x) s = .next (s.setDt (s.reg x)) := rfl

theorem exec_ldStVx (x : Nibble) (s : State) : exec (.ldStVx x) s = .next (s.setSt (s.reg x)) := rfl

/-! ### The statements -/

/-- Settles O37: by what the key scan finds, one register write or one write to `pc`. -/
theorem keyWaitTakesLeastKey : Obligations.KeyWaitTakesLeastKey := by
  intro x s
  refine ⟨decodeWord_encode (.ldVxK x) rfl, fun k pressed least => ?_, fun released => ?_⟩
  · refine ⟨_, exec_ldVxK_of_pressed (State.leastKey_eq_some pressed least) x, ?_, s.setReg_regsKeptBut x _,
      s.setReg_onlyChanges x _⟩
    rw [State.reg_setReg_self, keyByte_toNat]
  · exact ⟨_, exec_ldVxK_of_released (State.leastKey_eq_none released) x, s.setPc_pc _, s.setPc_onlyChanges _⟩

/-- Settles O39: each of the two is one write of the register's byte to a timer. -/
theorem timersWritten : Obligations.TimersWritten := by
  intro x s
  refine ⟨?ldDtVx, ?ldStVx⟩
  case ldDtVx =>
    exact ⟨decodeWord_encode (.ldDtVx x) rfl, _, exec_ldDtVx x s, s.setDt_dt _, s.setDt_onlyChanges _⟩
  case ldStVx =>
    exact ⟨decodeWord_encode (.ldStVx x) rfl, _, exec_ldStVx x s, s.setSt_st _, s.setSt_onlyChanges _⟩

end Sys2Proof.Machine
end

section
/-! The unknown word (60_exceptions.md R161): a cycle that fetches one raises the anomaly between the advance and the count. -/

namespace Sys2Proof.Machine

variable {s : State}

/-- The count of a cycle changes no field but `cycles`. -/
theorem State.countCycle_onlyChanges (s : State) : s.onlyChanges s.countCycle [.cycles] := by
  intro f hf
  cases f
  case cycles => exact absurd List.mem_cons_self hf
  all_goals simp [State.sameField]

/-- A Running machine that fetches an unknown word advances, raises the anomaly and counts (R150, R161). -/
theorem cycle_of_unknown {e : DecodeError} (running : s.run = true) (unknown : decodeWord s.fetchWord = .error e) :
    cycle s = .next (s.advance.raise .unknownOpcode s.fetchWord).countCycle := by
  rw [cycle_of_run running, executeWord_of_unknown unknown, finishCycle]

/-- Settles O11: the frame is that of the advance, the anomaly and the count in turn; the event's address, 2 below the advanced
`pc`, is the address of the fetch. -/
theorem unknownWordIsNoOp : Obligations.UnknownWordIsNoOp := by
  intro s e running unknown
  refine ⟨_, cycle_of_unknown running unknown, by simp, by simp, by simp, ?frame⟩
  case frame =>
    have advances := s.setPc_onlyChanges (s.pc + 2)
    have raises := s.advance.raise_onlyChanges .unknownOpcode s.fetchWord
    have counts := (s.advance.raise .unknownOpcode s.fetchWord).countCycle_onlyChanges
    exact State.onlyChanges_trans (State.onlyChanges_mono advances (by simp))
      (State.onlyChanges_trans (State.onlyChanges_mono raises (by simp)) (State.onlyChanges_mono counts (by simp)))

end Sys2Proof.Machine
end

section
/-! The Halted machine (60_exceptions.md R172, R178 to R182): what each agent's step and each host command leaves of `RUN`. -/

namespace Sys2Proof.Machine

variable {s : State}

/-- A Halted machine takes no timer step (R172). -/
theorem timerStep_of_halted (halted : s.run = false) : timerStep s = .next s := by
  simp [timerStep, halted]

/-- A Halted machine takes no watchdog step (R180, R181). -/
theorem watchdogStep_of_halted (halted : s.run = false) : watchdogStep s = .next s := by
  simp [watchdogStep, halted]

/-- Bytes written one after the other leave `RUN` as it is. -/
@[simp] theorem State.memWriteAll_run (s : State) (origin : Nat) (bytes : List Byte) :
    (s.memWriteAll origin bytes).run = s.run := by
  obtain ⟨m, written, -⟩ := s.memWriteAll_frame origin bytes
  rw [written, State.setMem_run]

/-- A load is admitted while Halted, whether it fits (R48) or not (R49), and leaves the machine Halted. -/
theorem hostLoad_keeps_halted (halted : s.run = false) (bytes : List Byte) (origin : Option Nat) :
    ∃ t, hostLoad bytes origin s = .next t ∧ t.run = false := by
  by_cases fits : bytes.length + loadOrigin origin ≤ 4096
  · exact ⟨_, hostLoad_of_fits halted fits, by simp [halted]⟩
  · exact ⟨s.setAnswer (some .romTooLarge), by simp [hostLoad, halted, fits], by simp [halted]⟩

/-- A reset is admitted while Halted and leaves the machine Halted: the fresh state is (R200). -/
theorem hostReset_keeps_halted (halted : s.run = false) : ∃ t, hostReset s = .next t ∧ t.run = false :=
  ⟨s.fresh.setAnswer (some .ok), by simp [hostReset, halted], rfl⟩

/-- `set_key` is always admitted and leaves `RUN` as it is, whether the key exists or not (R175). -/
theorem hostSetKey_keeps_run (key : Nat) (pressed : Bool) (s : State) :
    ∃ t, hostSetKey key pressed s = .next t ∧ t.run = s.run := by
  by_cases exists_key : key < 16
  · exact ⟨_, if_pos exists_key, by simp⟩
  · exact ⟨_, if_neg exists_key, by simp⟩

/-- `start` is admitted while Halted: it sets `LIMIT` and wakes the machine (R178). -/
theorem hostStart_of_halted (halted : s.run = false) (limit : Option Nat) :
    hostStart limit s = .next (((s.setLimit limit).setRun true).setAnswer (some .ok)) := by
  simp [hostStart, halted]

/-- Every input but `start` is admitted while Halted and leaves the machine Halted (R181). -/
theorem runInput_keeps_halted (halted : s.run = false) {input : Input} (not_start : ∀ l, input ≠ .start l) :
    ∃ t, runInput input s = .next t ∧ t.run = false := by
  cases input with
  | cpuTick => exact ⟨s, cycle_of_halted halted, halted⟩
  | timerTick => exact ⟨s, timerStep_of_halted halted, halted⟩
  | wdTick => exact ⟨s, watchdogStep_of_halted halted, halted⟩
  | load bytes origin => exact hostLoad_keeps_halted halted bytes origin
  | reset => exact hostReset_keeps_halted halted
  | setKey key pressed => exact halted ▸ hostSetKey_keeps_run key pressed s
  | start l => exact absurd rfl (not_start l)
  | stop => exact ⟨_, rfl, by simp⟩
  | snapshot => exact ⟨_, rfl, by simp [halted]⟩

/-- Settles O44: no agent's own step happens while Halted; of the inputs, `start` sets `RUN` and every other one leaves it
clear (`runInput_keeps_halted`). -/
theorem haltedMachineHolds : Obligations.HaltedMachineHolds := by
  intro s halted
  refine ⟨cycle_of_halted halted, timerStep_of_halted halted, watchdogStep_of_halted halted, fun input => ?_⟩
  by_cases is_start : ∃ l, input = .start l
  · obtain ⟨l, rfl⟩ := is_start
    exact ⟨_, hostStart_of_halted halted l, by simp⟩
  · obtain ⟨t, answers, still_halted⟩ := runInput_keeps_halted halted (not_exists.mp is_start)
    exact ⟨t, answers, by simp [still_halted, is_start]⟩

end Sys2Proof.Machine
end

section
/-! Reset (70_reset_and_hazards.md R200, R202): what a reset answers, and that a second one finds nothing left to change. -/

namespace Sys2Proof.Machine

/-- A Halted machine's reset answers its fresh state (R200). -/
theorem hostReset_of_halted {s : State} (halted : s.run = false) :
    hostReset s = .next (s.fresh.setAnswer (some .ok)) := by
  simp [hostReset, halted]

/-- What a reset makes fresh is Halted (R25). -/
@[simp] theorem State.fresh_run (s : State) : s.fresh.run = false := rfl

/-- A fresh state is already fresh: all it keeps of the machine are the four fields a reset leaves out (R24, R177, R202). -/
@[simp] theorem State.fresh_fresh_setAnswer (s : State) (a : Option Answer) :
    (s.fresh.setAnswer a).fresh = s.fresh.setAnswer a := rfl

/-- The later of two answers is the one shown. -/
@[simp] theorem State.setAnswer_setAnswer (s : State) (a b : Option Answer) :
    (s.setAnswer a).setAnswer b = s.setAnswer b := rfl

/-- Settles O50: the first reset leaves the machine Halted, so the second is admitted, and what it makes fresh is fresh
already (`State.fresh_fresh_setAnswer`). -/
theorem resetTwiceIsResetOnce : Obligations.ResetTwiceIsResetOnce := by
  intro s halted
  refine ⟨_, hostReset_of_halted halted, ?_⟩
  have still_halted : (s.fresh.setAnswer (some .ok)).run = false := by simp
  rw [hostReset_of_halted still_halted, State.fresh_fresh_setAnswer, State.setAnswer_setAnswer]

end Sys2Proof.Machine
end

section
/-! The decoder against the encoder and the opcode map (30_encoding.md R61 to R71): a word is the layout of its own fields, so what
a word decodes to is known from its first nibble and, in some families, its last nibble or its low byte. -/

namespace Sys2Proof

/-! ### A word laid out from its fields (R61) -/

variable {w : Word} {op : Nibble}

theorem encodeNNN_of_fieldOp (family : fieldOp w = op) : encodeNNN op (fieldNNN w) = w := by
  rw [← family, encodeNNN_fields]

theorem encodeXNN_of_fieldOp (family : fieldOp w = op) : encodeXNN op (fieldX w) (fieldNN w) = w := by
  rw [← family, encodeXNN_fields]

theorem encodeXNN_of_fieldNN {nn : Byte} (family : fieldOp w = op) (low : fieldNN w = nn) :
    encodeXNN op (fieldX w) nn = w := by
  rw [← low, encodeXNN_of_fieldOp family]

theorem encodeXYN_of_fieldOp (family : fieldOp w = op) : encodeXYN op (fieldX w) (fieldY w) (fieldN w) = w := by
  rw [← family, encodeXYN_fields]

theorem encodeXYN_of_fieldN {n : Nibble} (family : fieldOp w = op) (last : fieldN w = n) :
    encodeXYN op (fieldX w) (fieldY w) n = w := by
  rw [← last, encodeXYN_of_fieldOp family]

/-! ### A word that decodes (R63) -/

/-- The instruction `i` stands for the word `w`, and for no word of another row. -/
def Instr.StandsFor (i : Instr) (w : Word) : Prop := encode i = w ∧ i.wellFormed = true

/-- A word of family 0 that is neither exact word is that of a well-formed SYS (R65). -/
theorem sys_wellFormed {nnn : Addr} (layout : encode (.sys nnn) = w) (not_cls : w ≠ 0x00E0) (not_ret : w ≠ 0x00EE) :
    (Instr.sys nnn).wellFormed = true := by
  have ne_cls : nnn ≠ 0x0E0 := fun low => not_cls (by rw [← layout, low]; decide)
  have ne_ret : nnn ≠ 0x0EE := fun low => not_ret (by rw [← layout, low]; decide)
  exact Bool.and_eq_true_iff.mpr ⟨bne_iff_ne.mpr ne_cls, bne_iff_ne.mpr ne_ret⟩

/-- Family 0 always decodes; a word that is neither CLS nor RET is a well-formed SYS (R65). -/
theorem decodeFamily0_standsFor (family : fieldOp w = 0x0#4) : (decodeFamily0 w).StandsFor w := by
  have layout := encodeNNN_of_fieldOp family
  unfold decodeFamily0
  split
  · exact ⟨by simp [encode, *], rfl⟩
  · split
    · exact ⟨by simp [encode, *], rfl⟩
    · rename_i not_cls not_ret
      exact ⟨layout, sys_wellFormed layout not_cls not_ret⟩

theorem decodeFamily8_standsFor {i : Instr} (family : fieldOp w = 0x8#4) (decoded : decodeFamily8 w = .ok i) :
    i.StandsFor w := by
  unfold decodeFamily8 at decoded
  split at decoded <;> cases decoded
  all_goals exact ⟨encodeXYN_of_fieldN family ‹_›, rfl⟩

theorem decodeFamilyE_standsFor {i : Instr} (family : fieldOp w = 0xE#4) (decoded : decodeFamilyE w = .ok i) :
    i.StandsFor w := by
  unfold decodeFamilyE at decoded
  split at decoded <;> cases decoded
  all_goals exact ⟨encodeXNN_of_fieldNN family ‹_›, rfl⟩

theorem decodeFamilyF_standsFor {i : Instr} (family : fieldOp w = 0xF#4) (decoded : decodeFamilyF w = .ok i) :
    i.StandsFor w := by
  unfold decodeFamilyF at decoded
  split at decoded <;> cases decoded
  all_goals exact ⟨encodeXNN_of_fieldNN family ‹_›, rfl⟩

/-- A word that decodes is the word of a well-formed instruction, family by family. -/
theorem decodeWord_standsFor {i : Instr} (decoded : decodeWord w = .ok i) : i.StandsFor w := by
  unfold decodeWord at decoded
  split at decoded
  case h_1 family => cases decoded; exact decodeFamily0_standsFor family
  case h_6 family =>
    split at decoded <;> cases decoded
    exact ⟨encodeXYN_of_fieldN family ‹_›, rfl⟩
  case h_9 family => exact decodeFamily8_standsFor family decoded
  case h_10 family =>
    split at decoded <;> cases decoded
    exact ⟨encodeXYN_of_fieldN family ‹_›, rfl⟩
  case h_14 family => cases decoded; exact ⟨encodeXYN_of_fieldOp family, rfl⟩
  case h_15 family => exact decodeFamilyE_standsFor family decoded
  case h_16 =>
    have family : fieldOp w = 0xF#4 := by
      simp only [imp_false, ← BitVec.toNat_inj, BitVec.toNat_ofNat] at *
      omega
    exact decodeFamilyF_standsFor family decoded
  case h_2 family | h_3 family | h_11 family | h_12 family => cases decoded; exact ⟨encodeNNN_of_fieldOp family, rfl⟩
  case h_4 family | h_5 family | h_7 family | h_8 family | h_13 family =>
    cases decoded; exact ⟨encodeXNN_of_fieldOp family, rfl⟩

/-! ### A word that is refused (R70) -/

theorem decodeFamily8_refuses_iff : (∃ e, decodeFamily8 w = .error e) ↔
    (fieldN w).toNat ∈ [0x8, 0x9, 0xA, 0xB, 0xC, 0xD, 0xF] := by
  unfold decodeFamily8
  split
  case h_10 =>
    have fieldN_lt := (fieldN w).isLt
    simp only [imp_false, ← BitVec.toNat_inj, BitVec.toNat_ofNat] at *
    simp only [Except.error.injEq, exists_eq', true_iff, List.mem_cons, List.not_mem_nil, or_false]
    omega
  all_goals simp [*]

theorem decodeFamilyE_refuses_iff : (∃ e, decodeFamilyE w = .error e) ↔ (fieldNN w).toNat ∉ [0x9E, 0xA1] := by
  unfold decodeFamilyE
  split
  case h_3 => simp_all [← BitVec.toNat_inj]
  all_goals simp [*]

theorem decodeFamilyF_refuses_iff : (∃ e, decodeFamilyF w = .error e) ↔
    (fieldNN w).toNat ∉ [0x07, 0x0A, 0x15, 0x18, 0x1E, 0x29, 0x33, 0x55, 0x65] := by
  unfold decodeFamilyF
  split
  case h_10 => simp_all [← BitVec.toNat_inj]
  all_goals simp [*]

theorem decodeWord_refuses_iff : (∃ e, decodeWord w = .error e) ↔
    ((fieldOp w).toNat = 0x5 ∧ (fieldN w).toNat ≠ 0) ∨
    ((fieldOp w).toNat = 0x8 ∧ (fieldN w).toNat ∈ [0x8, 0x9, 0xA, 0xB, 0xC, 0xD, 0xF]) ∨
    ((fieldOp w).toNat = 0x9 ∧ (fieldN w).toNat ≠ 0) ∨
    ((fieldOp w).toNat = 0xE ∧ (fieldNN w).toNat ∉ [0x9E, 0xA1]) ∨
    ((fieldOp w).toNat = 0xF ∧ (fieldNN w).toNat ∉ [0x07, 0x0A, 0x15, 0x18, 0x1E, 0x29, 0x33, 0x55, 0x65]) := by
  unfold decodeWord
  split
  case h_6 family => split <;> simp_all [← BitVec.toNat_inj]
  case h_10 family => split <;> simp_all [← BitVec.toNat_inj]
  case h_9 family => rw [decodeFamily8_refuses_iff]; simp [family]
  case h_15 family => rw [decodeFamilyE_refuses_iff]; simp [family]
  case h_16 =>
    have family : fieldOp w = 0xF#4 := by
      simp only [imp_false, ← BitVec.toNat_inj, BitVec.toNat_ofNat] at *
      omega
    rw [decodeFamilyF_refuses_iff]; simp [family]
  all_goals simp [*]

/-! ### The opcode map (R64) -/

/-- Every instruction's word lies in its row. -/
theorem encode_in_opcodeRow (i : Instr) : encode i &&& (opcodeRow i).1 = (opcodeRow i).2 := by
  cases i with
  | cls => exact Laws.OpcodeRow.cls
  | ret => exact Laws.OpcodeRow.ret
  | sys | jp | call | ldI | jpV0 => exact Laws.OpcodeRow.nnn_row _ _
  | seImm | sneImm | ldImm | addImm | rnd =>
    exact (Laws.OpcodeRow.xnn_row _ _ _ 0x00#8).trans (by simp [encodeXNN, opcodeRow])
  | skp | sknp | ldVxDt | ldVxK | ldDtVx | ldStVx | addI | ldF | ldB | store | load =>
    exact (Laws.OpcodeRow.xnn_row _ _ _ 0xFF#8).trans (by simp [encodeXNN, opcodeRow])
  | drw => exact (Laws.OpcodeRow.xyn_row _ _ _ _ 0x0#4).trans (by simp [encodeXYN, opcodeRow])
  | seReg | sneReg | ldReg | orReg | andReg | xorReg | addReg | subReg | shr | subn | shl =>
    exact (Laws.OpcodeRow.xyn_row _ _ _ _ 0xF#4).trans (by simp [encodeXYN, opcodeRow])

/-- The instruction of the same row whose operands are the fields of `w`. -/
def Instr.withFields (w : Word) : Instr → Instr
  | .cls => .cls
  | .ret => .ret
  | .sys _ => .sys (fieldNNN w)
  | .jp _ => .jp (fieldNNN w)
  | .call _ => .call (fieldNNN w)
  | .seImm _ _ => .seImm (fieldX w) (fieldNN w)
  | .sneImm _ _ => .sneImm (fieldX w) (fieldNN w)
  | .seReg _ _ => .seReg (fieldX w) (fieldY w)
  | .ldImm _ _ => .ldImm (fieldX w) (fieldNN w)
  | .addImm _ _ => .addImm (fieldX w) (fieldNN w)
  | .ldReg _ _ => .ldReg (fieldX w) (fieldY w)
  | .orReg _ _ => .orReg (fieldX w) (fieldY w)
  | .andReg _ _ => .andReg (fieldX w) (fieldY w)
  | .xorReg _ _ => .xorReg (fieldX w) (fieldY w)
  | .addReg _ _ => .addReg (fieldX w) (fieldY w)
  | .subReg _ _ => .subReg (fieldX w) (fieldY w)
  | .shr _ _ => .shr (fieldX w) (fieldY w)
  | .subn _ _ => .subn (fieldX w) (fieldY w)
  | .shl _ _ => .shl (fieldX w) (fieldY w)
  | .sneReg _ _ => .sneReg (fieldX w) (fieldY w)
  | .ldI _ => .ldI (fieldNNN w)
  | .jpV0 _ => .jpV0 (fieldNNN w)
  | .rnd _ _ => .rnd (fieldX w) (fieldNN w)
  | .drw _ _ _ => .drw (fieldX w) (fieldY w) (fieldN w)
  | .skp _ => .skp (fieldX w)
  | .sknp _ => .sknp (fieldX w)
  | .ldVxDt _ => .ldVxDt (fieldX w)
  | .ldVxK _ => .ldVxK (fieldX w)
  | .ldDtVx _ => .ldDtVx (fieldX w)
  | .ldStVx _ => .ldStVx (fieldX w)
  | .addI _ => .addI (fieldX w)
  | .ldF _ => .ldF (fieldX w)
  | .ldB _ => .ldB (fieldX w)
  | .store _ => .store (fieldX w)
  | .load _ => .load (fieldX w)

theorem opcodeRow_withFields (w : Word) (i : Instr) : opcodeRow (i.withFields w) = opcodeRow i := by
  cases i <;> rfl

/-- A word in a row of format `NNN` is laid out from the row's first nibble. -/
theorem encodeNNN_of_row (row : w &&& encodeNNN 0xF#4 0x000#12 = encodeNNN op 0x000#12) :
    encodeNNN op (fieldNNN w) = w := by
  rw [← encodeNNN_fields w, Laws.OpcodeRow.nnn_row] at row
  exact encodeNNN_of_fieldOp (by simpa only [fieldOp_encodeNNN] using congrArg fieldOp row)

/-- A word in a row of format `XNN` has the row's first nibble and, where the row masks it, the row's low byte. -/
theorem fields_of_row_XNN {mask low : Byte} (row : w &&& encodeXNN 0xF#4 0x0#4 mask = encodeXNN op 0x0#4 low) :
    fieldOp w = op ∧ fieldNN w &&& mask = low := by
  rw [← encodeXNN_fields w, Laws.OpcodeRow.xnn_row] at row
  exact ⟨by simpa only [fieldOp_encodeXNN] using congrArg fieldOp row,
    by simpa only [fieldNN_encodeXNN] using congrArg fieldNN row⟩

theorem encodeXNN_of_row (row : w &&& encodeXNN 0xF#4 0x0#4 0x00#8 = encodeXNN op 0x0#4 0x00#8) :
    encodeXNN op (fieldX w) (fieldNN w) = w :=
  encodeXNN_of_fieldOp (fields_of_row_XNN row).1

theorem encodeXNN_of_exact_row {low : Byte} (row : w &&& encodeXNN 0xF#4 0x0#4 0xFF#8 = encodeXNN op 0x0#4 low) :
    encodeXNN op (fieldX w) low = w := by
  obtain ⟨family, masked⟩ := fields_of_row_XNN (mask := BitVec.allOnes 8) row
  exact encodeXNN_of_fieldNN family (BitVec.and_allOnes.symm.trans masked)

/-- A word in a row of four nibbles has the row's first nibble and, where the row masks it, the row's last nibble. -/
theorem fields_of_row_XYN {mask last : Nibble}
    (row : w &&& encodeXYN 0xF#4 0x0#4 0x0#4 mask = encodeXYN op 0x0#4 0x0#4 last) :
    fieldOp w = op ∧ fieldN w &&& mask = last := by
  rw [← encodeXYN_fields w, Laws.OpcodeRow.xyn_row] at row
  exact ⟨by simpa only [fieldOp_encodeXYN] using congrArg fieldOp row,
    by simpa only [fieldN_encodeXYN] using congrArg fieldN row⟩

theorem encodeXYN_of_row (row : w &&& encodeXYN 0xF#4 0x0#4 0x0#4 0x0#4 = encodeXYN op 0x0#4 0x0#4 0x0#4) :
    encodeXYN op (fieldX w) (fieldY w) (fieldN w) = w :=
  encodeXYN_of_fieldOp (fields_of_row_XYN row).1

theorem encodeXYN_of_exact_row {last : Nibble}
    (row : w &&& encodeXYN 0xF#4 0x0#4 0x0#4 0xF#4 = encodeXYN op 0x0#4 0x0#4 last) :
    encodeXYN op (fieldX w) (fieldY w) last = w := by
  obtain ⟨family, masked⟩ := fields_of_row_XYN (mask := BitVec.allOnes 4) row
  exact encodeXYN_of_fieldN family (BitVec.and_allOnes.symm.trans masked)

/-- A word that meets a row's mask and match is the word of the row's instruction with the word's own fields. -/
theorem encode_withFields {i : Instr} (row : w &&& (opcodeRow i).1 = (opcodeRow i).2) : encode (i.withFields w) = w := by
  cases i with
  | cls | ret => exact row.symm.trans BitVec.and_allOnes
  | sys | jp | call | ldI | jpV0 => exact encodeNNN_of_row row
  | seImm | sneImm | ldImm | addImm | rnd => exact encodeXNN_of_row row
  | skp | sknp | ldVxDt | ldVxK | ldDtVx | ldStVx | addI | ldF | ldB | store | load => exact encodeXNN_of_exact_row row
  | drw => exact encodeXYN_of_row row
  | seReg | sneReg | ldReg | orReg | andReg | xorReg | addReg | subReg | shr | subn | shl =>
    exact encodeXYN_of_exact_row row

/-- The one instruction whose well-formedness depends on its operand is SYS (R65). -/
theorem withFields_wellFormed {i : Instr} (row : w &&& (opcodeRow i).1 = (opcodeRow i).2)
    (not_exact : (∃ nnn, i = .sys nnn) → w ≠ 0x00E0 ∧ w ≠ 0x00EE) : (i.withFields w).wellFormed = true := by
  cases i with
  | sys nnn =>
    obtain ⟨not_cls, not_ret⟩ := not_exact ⟨nnn, rfl⟩
    exact sys_wellFormed (encode_withFields row) not_cls not_ret
  | _ => rfl

end Sys2Proof

namespace Sys2Proof.Machine

/-! ### The statements -/

/-- The two bytes of a word decode to what the word decodes to (R45, R60). -/
theorem decodeBytes_of_decodeWord {w : Word} {i : Instr} (decoded : decodeWord w = .ok i) (rest : List Byte) :
    decodeBytes (highByte w :: lowByte w :: rest) = .ok (i, rest) := by
  simp only [decodeBytes, wordOfBytes_bytes, decoded]

/-- Settles O2: the word decodes to the instruction (`decodeWord_encode`), and its two bytes are the word's. -/
theorem decodeOfEncodeIsInstruction : Obligations.DecodeOfEncodeIsInstruction := by
  intro i wf
  have decoded := decodeWord_encode i wf
  exact ⟨decoded, decodeBytes_of_decodeWord decoded []⟩

/-- Settles O3, family by family (`decodeWord_standsFor`). -/
theorem encodeOfDecodeIsWord : Obligations.EncodeOfDecodeIsWord :=
  fun _ _ decoded => decodeWord_standsFor decoded

/-- Settles O5: each of the five spaces is told by the first nibble and by the last one or the low byte. -/
theorem unknownWordsExactly : Obligations.UnknownWordsExactly := by
  intro w
  simp only [← fieldOp_toNat, ← fieldN_toNat, ← fieldNN_toNat]
  exact decodeWord_refuses_iff

/-- Settles O6: a word that decodes is the word of its instruction, which lies in that row; a word that meets a row is the word
of the row's instruction with its own fields, which decodes. -/
theorem decodeFollowsOpcodeMap : Obligations.DecodeFollowsOpcodeMap := by
  intro w i
  refine ⟨fun decoded => ?_, fun row not_exact => ⟨i.withFields w, ?_, opcodeRow_withFields w i⟩⟩
  · obtain ⟨rfl, -⟩ := decodeWord_standsFor decoded
    exact encode_in_opcodeRow i
  · simpa only [encode_withFields row] using decodeWord_encode (i.withFields w) (withFields_wellFormed row not_exact)

/-- Settles O1: fifteen of the words are the encodings of their instructions, the other five lie in the unknown spaces. -/
theorem decodeOfSpecWords : Obligations.DecodeOfSpecWords := by
  unfold Obligations.DecodeOfSpecWords
  decide

/-- A field is the word shifted down to it and masked to its width (R61). -/
theorem extractLsb'_setWidth (w : Word) (start len : Nat) :
    (w.extractLsb' start len).setWidth 16 = (w >>> start) &&& (BitVec.allOnes len).setWidth 16 := by
  ext k hk
  simp [Bool.and_comm]

/-- Settles O7: each field is one slice, and slices next to each other join. -/
theorem fieldsAreMaskedSlices : Obligations.FieldsAreMaskedSlices := by
  intro w
  have xy_joined : fieldX w ++ fieldY w = w.extractLsb' 4 8 := BitVec.extractLsb'_append_extractLsb'_eq_extractLsb' rfl
  refine ⟨extractLsb'_setWidth w 12 4, extractLsb'_setWidth w 8 4, extractLsb'_setWidth w 4 4, extractLsb'_setWidth w 0 4,
    extractLsb'_setWidth w 0 8, extractLsb'_setWidth w 0 12, ?nn, ?nnn⟩
  case nn =>
    exact (BitVec.extractLsb'_append_extractLsb'_eq_extractLsb' (x := w) (start₁ := 0) (len₁ := 4) (len₂ := 4) rfl).symm
  case nnn =>
    rw [xy_joined]
    exact (BitVec.extractLsb'_append_extractLsb'_eq_extractLsb' (x := w) (start₁ := 0) (len₁ := 4) (len₂ := 8) rfl).symm

end Sys2Proof.Machine
end

section
/-! The frame of every instruction (10_state.md R10 to R17, R22, R34): what each of the other instructions answers, and for all 35
that they answer a next state and keep every field and register but those the tables give them. -/

namespace Sys2Proof.Machine

/-! ### What each instruction answers -/

theorem exec_cls (s : State) : exec .cls s = .next s.clearFb := rfl

theorem exec_orReg (x y : Nibble) (s : State) : exec (.orReg x y) s = .next (s.setReg x (s.reg x ||| s.reg y)) := rfl

theorem exec_andReg (x y : Nibble) (s : State) : exec (.andReg x y) s = .next (s.setReg x (s.reg x &&& s.reg y)) := rfl

theorem exec_xorReg (x y : Nibble) (s : State) : exec (.xorReg x y) s = .next (s.setReg x (s.reg x ^^^ s.reg y)) := rfl

theorem exec_shr (x y : Nibble) (s : State) : exec (.shr x y) s =
    .next (s.setRegThenFlag x (s.shiftOperand x y >>> 1) (shiftedOutLow (s.shiftOperand x y))) := rfl

theorem exec_shl (x y : Nibble) (s : State) : exec (.shl x y) s =
    .next (s.setRegThenFlag x (s.shiftOperand x y <<< 1) (shiftedOutHigh (s.shiftOperand x y))) := rfl

theorem exec_rnd (x : Nibble) (nn : Byte) (s : State) :
    exec (.rnd x nn) s = .next (s.countDraw.setReg x (s.rnd &&& nn)) := rfl

theorem exec_drw (x y n : Nibble) (s : State) :
    exec (.drw x y n) s = .next ((s.setReg vf 0).drawRows (s.reg x) (s.reg y) n.toNat) := rfl

theorem exec_skp (x : Nibble) (s : State) : exec (.skp x) s = .next (s.skipIf (s.keyDown (s.selectedKey x))) := rfl

theorem exec_sknp (x : Nibble) (s : State) : exec (.sknp x) s = .next (s.skipIf (!s.keyDown (s.selectedKey x))) := rfl

theorem exec_ldVxDt (x : Nibble) (s : State) : exec (.ldVxDt x) s = .next (s.setReg x s.dt) := rfl

theorem exec_addI (x : Nibble) (s : State) : exec (.addI x) s = .next (s.setI (s.i + zextByte (s.reg x))) := rfl

theorem exec_store (x : Nibble) (s : State) : exec (.store x) s = .next (s.storeRegs (x.toNat + 1)) := rfl

theorem exec_load (x : Nibble) (s : State) : exec (.load x) s = .next (s.loadRegs (x.toNat + 1)) := rfl

/-! ### What an answer with two cases was -/

section
variable {s t : State}

/-- A CALL jumped, with room on the stack, or raised the anomaly, without (R83). -/
theorem exec_call_next {nnn : Addr} (answer : exec (.call nnn) s = .next t) :
    (s.sp < 16 ∧ t = (s.setStack (s.stack ++ [s.pc])).setPc (zextAddr nnn)) ∨
    (16 ≤ s.sp ∧ t = s.raise .stackOverflow (encode (.call nnn))) := by
  by_cases room : s.sp < 16
  · cases (exec_call_of_room room nnn).symm.trans answer
    exact .inl ⟨room, rfl⟩
  · have full := Nat.not_lt.mp room
    cases (exec_call_of_full full nnn).symm.trans answer
    exact .inr ⟨full, rfl⟩

/-- A RET took the newest entry, or raised the anomaly on an empty stack (R81). -/
theorem exec_ret_next (answer : exec .ret s = .next t) :
    (∃ older newest, s.stack = older ++ [newest] ∧ t = (s.setStack older).setPc newest) ∨
    (s.stack = [] ∧ t = s.raise .stackUnderflow (encode .ret)) := by
  rcases List.eq_nil_or_concat' s.stack with empty | ⟨older, newest, pushed⟩
  · cases (exec_ret_of_empty empty).symm.trans answer
    exact .inr ⟨empty, rfl⟩
  · cases (exec_ret_of_stack pushed).symm.trans answer
    exact .inl ⟨older, newest, pushed, rfl⟩

/-- A LD Vx, K wrote the least pressed key, or went back to itself (R142). -/
theorem exec_ldVxK_next {x : Nibble} (answer : exec (.ldVxK x) s = .next t) :
    (∃ k, s.leastKey = some k ∧ t = s.setReg x (BitVec.ofNat 8 k)) ∨ (s.leastKey = none ∧ t = s.setPc (s.pc - 2)) := by
  cases found : s.leastKey with
  | some k =>
    cases (exec_ldVxK_of_pressed found x).symm.trans answer
    exact .inl ⟨k, rfl, rfl⟩
  | none =>
    cases (exec_ldVxK_of_released found x).symm.trans answer
    exact .inr ⟨rfl, rfl⟩

end

/-! ### Frames of the compound answers -/

section
variable (s : State)

/-- A draw of the random input changes no field but `draws`. -/
theorem State.countDraw_onlyChanges : s.onlyChanges s.countDraw [.draws] := by
  intro f hf
  cases f
  case draws => exact absurd List.mem_cons_self hf
  all_goals simp [State.sameField]

theorem State.countDraw_setReg_onlyChanges (r : Nibble) (b : Byte) :
    s.onlyChanges (s.countDraw.setReg r b) [.v, .draws] :=
  State.onlyChanges_trans (State.onlyChanges_mono s.countDraw_onlyChanges (by simp))
    (State.onlyChanges_mono (s.countDraw.setReg_onlyChanges r b) (by simp))

/-- A sprite drawn after VF is cleared changes registers and pixels alone (R131). -/
theorem State.setReg_drawRows_onlyChanges (r : Nibble) (b cx cy : Byte) (n : Nat) :
    s.onlyChanges ((s.setReg r b).drawRows cx cy n) [.v, .fb] :=
  State.onlyChanges_trans (State.onlyChanges_mono (s.setReg_onlyChanges r b) (by simp))
    ((s.setReg r b).drawRows_onlyChanges cx cy n)

/-- A sprite drawn after VF is cleared changes no register but VF (R131). -/
theorem State.setReg_drawRows_regsKeptBut (b cx cy : Byte) {n : Nat} (rows : n ≤ 16) :
    s.regsKeptBut ((s.setReg vf b).drawRows cx cy n) [0xF] := by
  intro r kept
  have not_vf : r ≠ 0xF := List.ne_of_not_mem_cons kept
  rw [State.reg_drawRows_of_ne _ cx cy n rows not_vf]
  exact s.reg_setReg_of_ne b not_vf

/-- A block load changes no register but those loaded (R125). -/
theorem State.loadRegs_regsKeptBut {k : Nat} (regs : k ≤ 16) :
    s.regsKeptBut (s.loadRegs k) ((List.range k).map (BitVec.ofNat 4)) := by
  intro r kept
  have above : ¬ r.toNat < k := fun below =>
    kept (List.mem_map.mpr ⟨r.toNat, List.mem_range.mpr below, by simp⟩)
  rw [s.reg_loadRegs k regs, if_neg above]

variable {s}

/-- With no change to the field `v`, every register is kept. -/
theorem State.regsKeptBut_of_onlyChanges {t : State} {changed : List Field} (frame : s.onlyChanges t changed)
    (not_v : .v ∉ changed) (regs : List Nibble) : s.regsKeptBut t regs :=
  fun r _ => frame .v not_v r

end

/-! ### Every instruction -/

/-- What the tables let an instruction do: it answers a next state, within its fields and its registers. -/
def FrameOf (i : Instr) (s : State) : Prop :=
  ∃ t, exec i s = .next t ∧ s.onlyChanges t (mayChange i) ∧ s.regsKeptBut t (mayWriteRegs i)

/-- An instruction that the tables give no register needs only the frame of its fields. -/
theorem FrameOf.of_no_register {i : Instr} {s t : State} (answer : exec i s = .next t)
    (frame : s.onlyChanges t (mayChange i)) (not_v : .v ∉ mayChange i) : FrameOf i s :=
  ⟨t, answer, frame, State.regsKeptBut_of_onlyChanges frame not_v _⟩

/-- An instruction that writes one register. -/
theorem FrameOf.of_setReg {i : Instr} {s : State} {x : Nibble} {b : Byte} (answer : exec i s = .next (s.setReg x b))
    (fields : mayChange i = [.v]) (regs : mayWriteRegs i = [x]) : FrameOf i s :=
  ⟨_, answer, fields ▸ s.setReg_onlyChanges x b, regs ▸ s.setReg_regsKeptBut x b⟩

/-- An instruction that writes a result and then the flag. -/
theorem FrameOf.of_setRegThenFlag {i : Instr} {s : State} {x : Nibble} {b : Byte} {f : Bool}
    (answer : exec i s = .next (s.setRegThenFlag x b f)) (fields : mayChange i = [.v])
    (regs : mayWriteRegs i = [x, 0xF]) : FrameOf i s :=
  ⟨_, answer, fields ▸ s.setRegThenFlag_onlyChanges x b f, regs ▸ s.setRegThenFlag_regsKeptBut x b f⟩

/-- An instruction that may skip. -/
theorem FrameOf.of_skipIf {i : Instr} {s : State} {c : Bool} (answer : exec i s = .next (s.skipIf c))
    (fields : mayChange i = [.pc]) : FrameOf i s :=
  .of_no_register answer (fields ▸ s.skipIf_onlyChanges c) (by simp [fields])

/-- CALL, by whether the stack has room (R83). -/
theorem frameOf_call (nnn : Addr) (s : State) : FrameOf (.call nnn) s := by
  by_cases room : s.sp < 16
  · exact .of_no_register (exec_call_of_room room nnn)
      (State.onlyChanges_mono (s.setStack_setPc_onlyChanges _ _) (by simp [mayChange])) (by simp [mayChange])
  · exact .of_no_register (exec_call_of_full (Nat.not_lt.mp room) nnn)
      (State.onlyChanges_mono (s.raise_onlyChanges _ _) (by simp [mayChange])) (by simp [mayChange])

/-- RET, by whether the stack has a newest entry (R81). -/
theorem frameOf_ret (s : State) : FrameOf .ret s := by
  rcases List.eq_nil_or_concat' s.stack with empty | ⟨older, newest, pushed⟩
  · exact .of_no_register (exec_ret_of_empty empty)
      (State.onlyChanges_mono (s.raise_onlyChanges _ _) (by simp [mayChange])) (by simp [mayChange])
  · exact .of_no_register (exec_ret_of_stack pushed)
      (State.onlyChanges_mono (s.setStack_setPc_onlyChanges _ _) (by simp [mayChange])) (by simp [mayChange])

/-- LD Vx, K, by whether a key is pressed (R142). -/
theorem frameOf_ldVxK (x : Nibble) (s : State) : FrameOf (.ldVxK x) s := by
  cases found : s.leastKey with
  | some k =>
    exact ⟨_, exec_ldVxK_of_pressed found x, State.onlyChanges_mono (s.setReg_onlyChanges _ _) (by simp [mayChange]),
      s.setReg_regsKeptBut _ _⟩
  | none =>
    have frame := s.setPc_onlyChanges (s.pc - 2)
    exact ⟨_, exec_ldVxK_of_released found x, State.onlyChanges_mono frame (by simp [mayChange]),
      State.regsKeptBut_of_onlyChanges frame (by simp) _⟩

/-- Every instruction keeps to its frame: each writes through the operations whose frames stand above. -/
theorem frameOf (i : Instr) (s : State) : FrameOf i s := by
  cases i with
  | ldImm | addImm | ldReg | orReg | andReg | xorReg | ldVxDt => exact .of_setReg rfl rfl rfl
  | addReg | subReg | shr | subn | shl => exact .of_setRegThenFlag rfl rfl rfl
  | seImm | sneImm | seReg | sneReg | skp | sknp => exact .of_skipIf rfl rfl
  | jp | jpV0 => exact .of_no_register rfl (s.setPc_onlyChanges _) (by simp [mayChange])
  | ldI | addI | ldF => exact .of_no_register rfl (s.setI_onlyChanges _) (by simp [mayChange])
  | cls => exact .of_no_register (exec_cls s) s.clearFb_onlyChanges (by simp [mayChange])
  | ret => exact frameOf_ret s
  | sys nnn => exact .of_no_register (exec_sys nnn s) (s.onlyChanges_refl _) (by simp [mayChange])
  | call nnn => exact frameOf_call nnn s
  | rnd x nn => exact ⟨_, exec_rnd x nn s, s.countDraw_setReg_onlyChanges _ _, s.countDraw.setReg_regsKeptBut _ _⟩
  | drw x y n =>
    exact ⟨_, exec_drw x y n s, s.setReg_drawRows_onlyChanges _ _ _ _ _, s.setReg_drawRows_regsKeptBut _ _ _ n.isLt.le⟩
  | ldVxK x => exact frameOf_ldVxK x s
  | ldDtVx x => exact .of_no_register (exec_ldDtVx x s) (s.setDt_onlyChanges _) (by simp [mayChange])
  | ldStVx x => exact .of_no_register (exec_ldStVx x s) (s.setSt_onlyChanges _) (by simp [mayChange])
  | ldB x => exact .of_no_register (exec_ldB x s) (s.writeThree_onlyChanges _ _ _) (by simp [mayChange])
  | store x => exact .of_no_register (exec_store x s) (s.storeRegs_onlyChanges _) (by simp [mayChange])
  | load x => exact ⟨_, exec_load x s, s.loadRegs_onlyChanges _, s.loadRegs_regsKeptBut x.isLt⟩

/-- Settles O56 (`frameOf`). -/
theorem frameOfEveryInstruction : Obligations.FrameOfEveryInstruction := frameOf

/-! ### What every instruction leaves alone -/

section
variable {i : Instr} {s t : State}

/-- The frame of an instruction, from its answer. -/
theorem exec_onlyChanges (answer : exec i s = .next t) : s.onlyChanges t (mayChange i) := by
  obtain ⟨u, answer', frame, -⟩ := frameOf i s
  obtain rfl : u = t := by simpa [answer] using answer'.symm
  exact frame

/-- The fields that some instruction changes; the others belong to the other agents and the host. -/
def instrFields : List Field := [.v, .pc, .i, .stack, .dt, .st, .fb, .mem, .ev, .draws]

theorem mayChange_subset (i : Instr) : mayChange i ⊆ instrFields := by
  cases i <;> simp [mayChange, instrFields]

/-- No instruction touches `KEY`, `CYCLES`, `RUN`, `LIMIT`, the parameters, the inputs or the answer. -/
theorem exec_keeps (answer : exec i s = .next t) {f : Field} (other : f ∉ instrFields) : s.sameField t f :=
  exec_onlyChanges answer f fun listed => other (mayChange_subset i listed)

end

end Sys2Proof.Machine
end

section
/-! The invariant (10_state.md R14, R24; 20_memory.md R43): every step of every agent keeps the parameters, the canonical form of
memory and the bound of the stack. -/

namespace Sys2Proof.Machine

variable {s t u : State}

/-! ### What a cycle can do (R150) -/

/-- A Running machine's cycle executes the instruction it fetched, or raises the anomaly of the unknown word, and counts. -/
theorem cycle_next_of_run (running : s.run = true) (answer : cycle s = .next t) :
    (∃ i u, decodeWord s.fetchWord = .ok i ∧ exec i s.advance = .next u ∧ t = u.countCycle) ∨
    (∃ e, decodeWord s.fetchWord = .error e ∧ t = (s.advance.raise .unknownOpcode s.fetchWord).countCycle) := by
  cases decoded : decodeWord s.fetchWord with
  | ok i =>
    rw [cycle_of_run running, executeWord_of_decode decoded] at answer
    obtain ⟨u, executed, rfl⟩ := finishCycle_eq_next.mp answer
    exact .inl ⟨i, u, rfl, executed, rfl⟩
  | error e =>
    rw [cycle_of_unknown running decoded] at answer
    cases answer
    exact .inr ⟨e, rfl, rfl⟩

/-! ### Steps that keep the parameters and the invariant -/

/-- The step from `s` to `t` keeps the parameters and, where it holds, the invariant. -/
def State.KeepsInv (s t : State) : Prop := t.config = s.config ∧ (s.Inv → t.Inv)

/-- A step that leaves the parameters, memory and the stack alone. -/
theorem State.KeepsInv.of_same (config : t.config = s.config) (mem : t.mem = s.mem) (stack : t.stack = s.stack) :
    s.KeepsInv t :=
  ⟨config, fun inv => State.Inv_of_same inv config mem stack⟩

theorem State.KeepsInv.trans (first : s.KeepsInv t) (second : t.KeepsInv u) : s.KeepsInv u :=
  ⟨second.1.trans first.1, second.2 ∘ first.2⟩

/-! ### The CPU -/

/-- A skip stores no byte. -/
theorem State.skipIf_mem (s : State) (c : Bool) : (s.skipIf c).mem = s.mem := by
  cases c <;> rfl

/-- Only the two storing instructions change the listed bytes of memory. -/
theorem exec_mem {i : Instr} (not_ldB : ∀ x, i ≠ .ldB x) (not_store : ∀ x, i ≠ .store x) (answer : exec i s = .next t) :
    t.mem = s.mem := by
  cases i with
  | ldB x => exact absurd rfl (not_ldB x)
  | store x => exact absurd rfl (not_store x)
  | seImm | sneImm | seReg | sneReg | skp | sknp => cases answer; exact s.skipIf_mem _
  | load x => cases answer; exact s.mem_loadRegs _
  | drw x y n => cases answer; exact State.mem_drawRows _ _ _ _
  | call nnn => obtain ⟨-, rfl⟩ | ⟨-, rfl⟩ := exec_call_next answer <;> rfl
  | ret => obtain ⟨older, newest, -, rfl⟩ | ⟨-, rfl⟩ := exec_ret_next answer <;> rfl
  | ldVxK x => obtain ⟨k, -, rfl⟩ | ⟨-, rfl⟩ := exec_ldVxK_next answer <;> rfl
  | _ => cases answer; rfl

/-- Every instruction keeps memory in its canonical form. -/
theorem exec_wf {i : Instr} (answer : exec i s = .next t) (wf : Memory.wf s.config s.mem) : Memory.wf t.config t.mem := by
  cases i with
  | ldB x =>
    cases answer
    exact State.memWrite_wf _ _ _ (State.memWrite_wf _ _ _ (State.memWrite_wf s _ _ wf))
  | store x =>
    cases answer
    exact s.storeRegs_wf _ wf
  | _ =>
    have config : t.config = s.config := exec_keeps answer (f := .config) (by decide)
    rwa [config, exec_mem (by simp) (by simp) answer]

/-- Every instruction keeps the bound of the stack: CALL pushes only below 16 entries (R83), and RET only pops. -/
theorem exec_sp_le {i : Instr} (answer : exec i s = .next t) (bound : s.sp ≤ 16) : t.sp ≤ 16 := by
  cases i with
  | call nnn =>
    obtain ⟨room, rfl⟩ | ⟨-, rfl⟩ := exec_call_next answer
    · simp only [State.sp, State.setPc_stack, State.setStack_stack, List.length_append, List.length_singleton] at room ⊢
      omega
    · exact bound
  | ret =>
    obtain ⟨older, newest, pushed, rfl⟩ | ⟨-, rfl⟩ := exec_ret_next answer
    · simp only [State.sp, State.setPc_stack, State.setStack_stack, pushed, List.length_append] at bound ⊢
      omega
    · exact bound
  | _ =>
    have stack : t.stack = s.stack := exec_onlyChanges answer .stack (by simp [mayChange])
    rwa [State.sp, stack]

theorem exec_keepsInv {i : Instr} (answer : exec i s = .next t) : s.KeepsInv t :=
  ⟨exec_keeps answer (f := .config) (by decide), fun inv => ⟨exec_wf answer inv.1, exec_sp_le answer inv.2⟩⟩

theorem cycle_keepsInv (answer : cycle s = .next t) : s.KeepsInv t := by
  cases running : s.run with
  | false =>
    cases (cycle_of_halted running).symm.trans answer
    exact .of_same rfl rfl rfl
  | true =>
    have advance : s.KeepsInv s.advance := .of_same rfl rfl rfl
    have count (u : State) : u.KeepsInv u.countCycle := .of_same rfl rfl rfl
    rcases cycle_next_of_run running answer with ⟨i, u, -, executed, rfl⟩ | ⟨e, -, rfl⟩
    · exact (advance.trans (exec_keepsInv executed)).trans (count u)
    · exact .of_same rfl rfl rfl

/-! ### The other agents and the host -/

theorem timerStep_keepsInv (answer : timerStep s = .next t) : s.KeepsInv t := by
  cases answer
  split <;> exact .of_same rfl rfl rfl

theorem watchdogStep_keepsInv (answer : watchdogStep s = .next t) : s.KeepsInv t := by
  cases answer
  split <;> exact .of_same rfl rfl rfl

/-- Bytes written one after the other change memory alone, within its canonical form (R48). -/
theorem State.memWriteAll_keepsInv (s : State) (origin : Nat) (bytes : List Byte) :
    s.KeepsInv (s.memWriteAll origin bytes) := by
  obtain ⟨m, written, wf⟩ := s.memWriteAll_frame origin bytes
  rw [written]
  exact ⟨rfl, fun inv => ⟨wf inv.1, inv.2⟩⟩

theorem hostLoad_keepsInv {bytes : List Byte} {origin : Option Nat} (answer : hostLoad bytes origin s = .next t) :
    s.KeepsInv t := by
  unfold hostLoad at answer
  split at answer
  · cases answer
  · split at answer <;> cases answer
    · exact (s.memWriteAll_keepsInv _ bytes).trans (.of_same rfl rfl rfl)
    · exact .of_same rfl rfl rfl

/-- Whatever the machine held, what a reset makes fresh lists no byte and has an empty stack (R25). -/
theorem State.fresh_Inv (s : State) (a : Option Answer) : (s.fresh.setAnswer a).Inv :=
  ⟨⟨.nil, by simp [State.fresh, State.reset]⟩, Nat.zero_le 16⟩

theorem hostReset_next (answer : hostReset s = .next t) : t = s.fresh.setAnswer (some .ok) := by
  unfold hostReset at answer
  split at answer <;> cases answer
  rfl

theorem hostReset_keepsInv (answer : hostReset s = .next t) : s.KeepsInv t := by
  cases hostReset_next answer
  exact ⟨rfl, fun _ => s.fresh_Inv _⟩

theorem hostSetKey_keepsInv {key : Nat} {pressed : Bool} (answer : hostSetKey key pressed s = .next t) : s.KeepsInv t := by
  unfold hostSetKey at answer
  split at answer <;> cases answer <;> exact .of_same rfl rfl rfl

theorem hostStart_keepsInv {limit : Option Nat} (answer : hostStart limit s = .next t) : s.KeepsInv t := by
  unfold hostStart at answer
  split at answer <;> cases answer
  exact .of_same rfl rfl rfl

/-- Every agent's step keeps the parameters and the invariant. -/
theorem runInput_keepsInv {input : Input} (answer : runInput input s = .next t) : s.KeepsInv t := by
  cases input with
  | cpuTick => exact cycle_keepsInv answer
  | timerTick => exact timerStep_keepsInv answer
  | wdTick => exact watchdogStep_keepsInv answer
  | load bytes origin => exact hostLoad_keepsInv answer
  | reset => exact hostReset_keepsInv answer
  | setKey key pressed => exact hostSetKey_keepsInv answer
  | start limit => exact hostStart_keepsInv answer
  | stop => cases answer; exact .of_same rfl rfl rfl
  | snapshot => cases answer; exact .of_same rfl rfl rfl

theorem step_keepsInv (answer : step s = .next t) : s.KeepsInv t :=
  have taken : s.KeepsInv s.takeInput := .of_same rfl rfl rfl
  taken.trans (runInput_keepsInv answer)

/-! ### The statements -/

/-- Settles O54: agent by agent (`runInput_keepsInv`), and for the CPU instruction by instruction (`exec_wf`, `exec_sp_le`). -/
theorem stepKeepsInvariant : Obligations.StepKeepsInvariant :=
  fun _ _ inv answer => (step_keepsInv answer).2 inv

/-- Settles O55, by the same case split as O54. -/
theorem stepKeepsParameters : Obligations.StepKeepsParameters :=
  fun _ _ answer => (step_keepsInv answer).1

/-- Settles O53: no byte is listed and the stack is empty. -/
theorem freshStateHasInvariant : Obligations.FreshStateHasInvariant := by
  refine ⟨⟨⟨.nil, by simp [State.reset]⟩, Nat.zero_le 16⟩, fun s t answer => ?_⟩
  cases hostReset_next answer
  exact s.fresh_Inv _

end Sys2Proof.Machine
end

section
/-! The cycle (45_cycle.md R150 to R154): that it always completes and counts, what it leaves alone, which word it fetches, and the
events it appends (60_exceptions.md R160, R163). -/

namespace Sys2Proof.Machine

variable {s t : State}

/-! ### The step and the word fetched -/

/-- A step takes the first pending input and runs the agent step it names. -/
theorem step_of_pending {input : Input} {rest : List Input} (pending : s.inputs = input :: rest) :
    step s = runInput input (s.setInputs rest) := by
  have next : s.nextInput = input := by simp [State.nextInput, pending]
  rw [step_of_input next, State.takeInput, pending, List.tail_cons]

/-- With no input pending, the step is the CPU's cycle. -/
theorem step_of_no_input (none_pending : s.inputs = []) : step s = cycle s := by
  have next : s.nextInput = .cpuTick := by simp [State.nextInput, none_pending]
  have taken : s.takeInput = s := by rw [State.takeInput, none_pending, List.tail_nil, ← none_pending]; rfl
  rw [step_of_input next, taken, runInput]

/-- The byte at the lower address is the word's high half (R45). -/
theorem wordOfBytes_toNat (hi lo : Byte) : (wordOfBytes hi lo).toNat = 256 * hi.toNat + lo.toNat := by
  have lo_lt := lo.isLt
  show (hi ++ lo).toNat = _
  rw [BitVec.toNat_append, ← Nat.shiftLeft_add_eq_or_of_lt lo_lt, Nat.shiftLeft_eq]
  omega

/-! ### A Running machine's cycle -/

/-- The cycle that fetches a word of an instruction is the instruction's rule after the advance, and the count. -/
theorem cycle_of_decode {i : Instr} (running : s.run = true) (decoded : decodeWord s.fetchWord = .ok i)
    (executed : exec i s.advance = .next t) : cycle s = .next t.countCycle := by
  rw [cycle_of_run running, executeWord_of_decode decoded, executed, finishCycle]

/-- No word keeps a cycle from completing: every instruction answers a next state, and so does the unknown word (R153). -/
theorem cycle_completes (running : s.run = true) : ∃ t, cycle s = .next t := by
  cases decoded : decodeWord s.fetchWord with
  | ok i =>
    obtain ⟨u, executed, -⟩ := frameOf i s.advance
    exact ⟨_, cycle_of_decode running decoded executed⟩
  | error e => exact ⟨_, cycle_of_unknown running decoded⟩

/-- What no instruction touches, a cycle leaves as the advance and the count leave it. -/
theorem cycle_keeps_agent_fields (running : s.run = true) (answer : cycle s = .next t) :
    t.cycles = s.cycles + 1 ∧ t.run = s.run ∧ t.limit = s.limit ∧ ∀ k, t.keyDown k = s.keyDown k := by
  rcases cycle_next_of_run running answer with ⟨i, u, -, executed, rfl⟩ | ⟨e, -, rfl⟩
  · have cycles : u.cycles = s.cycles := exec_keeps executed (f := .cycles) (by decide)
    have run : u.run = s.run := exec_keeps executed (f := .run) (by decide)
    have limit : u.limit = s.limit := exec_keeps executed (f := .limit) (by decide)
    have keys : ∀ k, u.keyDown k = s.keyDown k := exec_keeps executed (f := .key) (by decide)
    exact ⟨congrArg (· + 1) cycles, run, limit, keys⟩
  · exact ⟨rfl, rfl, rfl, fun _ => rfl⟩

/-! ### Events -/

/-- An instruction appends no event, but for a CALL on a full stack and a RET on an empty one (R81, R83). -/
theorem exec_ev {i : Instr} (answer : exec i s = .next t) : t.ev = s.ev ∨
    (∃ nnn, i = .call nnn ∧ 16 ≤ s.sp ∧ t.ev = s.ev ++ [⟨.stackOverflow, encode i, s.pc - 2⟩]) ∨
    (i = .ret ∧ s.sp = 0 ∧ t.ev = s.ev ++ [⟨.stackUnderflow, encode i, s.pc - 2⟩]) := by
  cases i with
  | call nnn =>
    obtain ⟨-, rfl⟩ | ⟨full, rfl⟩ := exec_call_next answer
    · exact .inl rfl
    · exact .inr (.inl ⟨nnn, rfl, full, rfl⟩)
  | ret =>
    obtain ⟨older, newest, -, rfl⟩ | ⟨empty, rfl⟩ := exec_ret_next answer
    · exact .inl rfl
    · exact .inr (.inr ⟨rfl, List.length_eq_zero_iff.mpr empty, rfl⟩)
  | _ => exact .inl (exec_onlyChanges answer .ev (by simp [mayChange]))

/-- The address an event of a cycle records is that of the fetch: 2 below the advanced `pc` (R150, R163). -/
theorem State.advance_pc_sub (s : State) : s.advance.pc - 2 = s.pc := by
  simp

/-- The record `e` is one that a cycle of `s` may append (R160). -/
def State.mayRecord (s : State) (e : Event) : Prop :=
  e.word = s.fetchWord ∧ e.addr = s.pc ∧
    (e.kind = .unknownOpcode → ∃ err, decodeWord s.fetchWord = .error err) ∧
    (e.kind = .stackOverflow → (∃ nnn, decodeWord s.fetchWord = .ok (.call nnn)) ∧ 16 ≤ s.sp) ∧
    (e.kind = .stackUnderflow → decodeWord s.fetchWord = .ok .ret ∧ s.sp = 0)

/-- A cycle appends nothing or one record. -/
theorem cycle_ev (running : s.run = true) (answer : cycle s = .next t) :
    t.ev = s.ev ∨ ∃ e, t.ev = s.ev ++ [e] ∧ s.mayRecord e := by
  rcases cycle_next_of_run running answer with ⟨i, u, decoded, executed, rfl⟩ | ⟨err, unknown, rfl⟩
  · obtain ⟨word, -⟩ := decodeWord_standsFor decoded
    rcases exec_ev executed with silent | ⟨nnn, rfl, full, appended⟩ | ⟨rfl, empty, appended⟩
    · exact .inl silent
    · exact .inr ⟨_, appended, word, s.advance_pc_sub, nofun, fun _ => ⟨⟨nnn, decoded⟩, full⟩, nofun⟩
    · exact .inr ⟨_, appended, word, s.advance_pc_sub, nofun, nofun, fun _ => ⟨decoded, empty⟩⟩
  · exact .inr ⟨_, rfl, rfl, s.advance_pc_sub, fun _ => ⟨err, unknown⟩, nofun, nofun⟩

/-! ### The statements -/

/-- Settles O8: the step takes the input and is the cycle, whose three cases stand above. -/
theorem stepRunsDecodedInstruction : Obligations.StepRunsDecodedInstruction := by
  intro s next
  have step_eq : step s = cycle s.takeInput := step_of_input next
  refine ⟨fun running i decoded => ?known, fun running e unknown => ?unknown, fun halted => ?halted⟩
  case known =>
    obtain ⟨u, executed, -⟩ := frameOf i { s with inputs := s.inputs.tail, pc := s.pc + 2 }
    rw [step_eq, cycle_of_decode (s := s.takeInput) running decoded executed, executed]
    rfl
  case unknown =>
    rw [step_eq, cycle_of_unknown (s := s.takeInput) running unknown, State.raise, State.advance_pc_sub]
    rfl
  case halted => exact step_eq.trans (cycle_of_halted (s := s.takeInput) halted)

/-- Settles O9: each of the nine inputs names its agent's step. -/
theorem stepTakesNextInput : Obligations.StepTakesNextInput := by
  intro s rest
  exact ⟨step_of_no_input, step_of_pending, step_of_pending, step_of_pending, fun _ _ => step_of_pending, step_of_pending,
    fun _ _ => step_of_pending, fun _ => step_of_pending, step_of_pending, step_of_pending⟩

/-- Settles O10. -/
theorem fetchIsBigEndian : Obligations.FetchIsBigEndian := by
  intro s
  rw [State.fetchWord, wordOfBytes_toNat, State.memRead_mod, State.memRead_mod]

/-- Settles O12. -/
theorem everyCycleCountsOnce : Obligations.EveryCycleCountsOnce := by
  intro s running
  obtain ⟨t, answer⟩ := cycle_completes running
  obtain ⟨counted, -⟩ := cycle_keeps_agent_fields running answer
  exact ⟨t, answer, counted⟩

/-- Settles O57: no instruction touches the three fields. -/
theorem programCannotStopItself : Obligations.ProgramCannotStopItself := by
  intro s running
  obtain ⟨t, answer⟩ := cycle_completes running
  obtain ⟨-, run, limit, keys⟩ := cycle_keeps_agent_fields running answer
  exact ⟨t, answer, run.trans running, limit, keys⟩

/-- Settles O58: the word an instruction names in its event is the word it was decoded from (`decodeWord_standsFor`). -/
theorem cycleAppendsAtMostOneEvent : Obligations.CycleAppendsAtMostOneEvent := by
  intro s t running answer
  rcases cycle_ev running answer with silent | ⟨e, appended, recorded⟩
  · exact ⟨[], by simp [silent], by simp, by simp⟩
  · exact ⟨[e], appended, le_rfl, List.forall_mem_singleton.mpr recorded⟩

/-- Settles O13: such a word is that of a well-formed SYS, whose rule is the identity. -/
theorem sysOnlyAdvances : Obligations.SysOnlyAdvances := by
  intro nnn s
  refine ⟨exec_sys nnn s, fun running fetched not_cls not_ret => ?_⟩
  have wf : (Instr.sys nnn).wellFormed = true := Bool.and_eq_true_iff.mpr ⟨bne_iff_ne.mpr not_cls, bne_iff_ne.mpr not_ret⟩
  have decoded : decodeWord s.fetchWord = .ok (.sys nnn) := fetched ▸ decodeWord_encode (.sys nnn) wf
  exact cycle_of_decode running decoded (exec_sys nnn s.advance)

/-- Settles O60: the jump undoes the advance, so only the count is left. -/
theorem selfJumpStaysPut : Obligations.SelfJumpStaysPut := by
  intro s nnn running self fetched
  have decoded : decodeWord s.fetchWord = .ok (.jp nnn) := fetched ▸ decodeWord_encode (.jp nnn) rfl
  have target : zextAddr nnn = s.pc := BitVec.eq_of_toNat_eq ((zextAddr_toNat nnn).trans self.symm)
  rw [cycle_of_decode running decoded (exec_jp nnn s.advance), target]
  rfl

/-- Settles O28: but for ADD I, an instruction leaves `I` alone, or writes a 12-bit address or that of a glyph to it. -/
theorem indexAboveMemoryOnlyByAdd : Obligations.IndexAboveMemoryOnlyByAdd := by
  intro i s t answer below above
  cases i with
  | addI x => exact ⟨x, rfl⟩
  | ldI nnn =>
    cases (exec_ldI nnn s).symm.trans answer
    rw [State.setI_i, zextAddr_toNat] at above
    exact absurd nnn.isLt (by omega)
  | ldF x =>
    cases (exec_ldF x s).symm.trans answer
    rw [State.setI_i, glyphAddr_toNat] at above
    exact absurd (s.reg x).isLt (by omega)
  | _ =>
    have index : t.i = s.i := exec_onlyChanges answer .i (by simp [mayChange])
    rw [index] at above
    omega

end Sys2Proof.Machine
end

section
/-! What no cycle reads (10_state.md R15, R22): the sound timer and the event channel. -/

namespace Sys2Proof.Machine

variable {s t : State}

/-- `s` with another sound timer and with other events in front of the ones recorded. -/
def State.withUnread (g : Byte → Byte) (before : List Event) (s : State) : State :=
  { s with st := g s.st, ev := before ++ s.ev }

section
variable (s) (g : Byte → Byte) (before : List Event)

/-- The anomaly appends its record after whatever stands before. -/
theorem State.raise_withUnread (k : Anomaly) (w : Word) :
    (s.withUnread g before).raise k w = (s.raise k w).withUnread g before := by
  simp [State.raise, State.withUnread]

theorem State.skipIf_withUnread (c : Bool) :
    (s.withUnread g before).skipIf c = (s.skipIf c).withUnread g before := by
  cases c <;> rfl

theorem State.storeRegs_withUnread (k : Nat) :
    (s.withUnread g before).storeRegs k = (s.storeRegs k).withUnread g before := by
  induction k with
  | zero => rfl
  | succ k ih => rw [State.storeRegs, ih]; rfl

theorem State.loadRegs_withUnread (k : Nat) :
    (s.withUnread g before).loadRegs k = (s.loadRegs k).withUnread g before := by
  induction k with
  | zero => rfl
  | succ k ih => rw [State.loadRegs, ih]; rfl

theorem State.hitPixel_withUnread (r : Fin 32) (c : Fin 64) :
    (s.withUnread g before).hitPixel r c = (s.hitPixel r c).withUnread g before := by
  have pixel : (s.withUnread g before).pixel r c = s.pixel r c := rfl
  cases hit : s.pixel r c <;> simp only [State.hitPixel, pixel, hit] <;> rfl

theorem State.drawBits_withUnread (cx cy : Byte) (r : Nat) (row : Byte) (k : Nat) :
    (s.withUnread g before).drawBits cx cy r row k = (s.drawBits cx cy r row k).withUnread g before := by
  induction k with
  | zero => rfl
  | succ k ih =>
    cases bit : spriteBit row k <;> simp only [State.drawBits, bit, ih]
    · rfl
    · exact State.hitPixel_withUnread _ g before _ _

theorem State.drawRows_withUnread (cx cy : Byte) (n : Nat) :
    (s.withUnread g before).drawRows cx cy n = (s.drawRows cx cy n).withUnread g before := by
  induction n with
  | zero => rfl
  | succ n ih =>
    rw [State.drawRows, ih]
    exact State.drawBits_withUnread _ g before _ _ _ _ _

end

/-- Every instruction does the same with other unread fields, and leaves them other; only `Fx18` replaces the sound timer. -/
theorem exec_withUnread {g : Byte → Byte} (before : List Event) {i : Instr} (timer : (∃ x, i = .ldStVx x) → g = id)
    (answer : exec i s = .next t) : exec i (s.withUnread g before) = .next (t.withUnread g before) := by
  cases i with
  | ldStVx x => cases timer ⟨x, rfl⟩; cases answer; rfl
  | seImm | sneImm | seReg | sneReg | skp | sknp =>
    cases answer
    exact congrArg Host.Outcome.next (State.skipIf_withUnread _ g before _)
  | store x => cases answer; exact congrArg Host.Outcome.next (s.storeRegs_withUnread g before _)
  | load x => cases answer; exact congrArg Host.Outcome.next (s.loadRegs_withUnread g before _)
  | drw x y n => cases answer; exact congrArg Host.Outcome.next ((s.setReg vf 0).drawRows_withUnread g before _ _ _)
  | call nnn =>
    obtain ⟨room, rfl⟩ | ⟨full, rfl⟩ := exec_call_next answer
    · exact exec_call_of_room (s := s.withUnread g before) room nnn
    · rw [exec_call_of_full (s := s.withUnread g before) full nnn, State.raise_withUnread]
  | ret =>
    obtain ⟨older, newest, pushed, rfl⟩ | ⟨empty, rfl⟩ := exec_ret_next answer
    · exact exec_ret_of_stack (s := s.withUnread g before) pushed
    · rw [exec_ret_of_empty (s := s.withUnread g before) empty, State.raise_withUnread]
  | ldVxK x =>
    obtain ⟨k, found, rfl⟩ | ⟨found, rfl⟩ := exec_ldVxK_next answer
    · exact exec_ldVxK_of_pressed (s := s.withUnread g before) found x
    · exact exec_ldVxK_of_released (s := s.withUnread g before) found x
  | _ => cases answer; rfl

/-- A cycle does the same with other events in front, which it leaves in front. -/
theorem cycle_withUnread (before : List Event) (answer : cycle s = .next t) :
    cycle (s.withUnread id before) = .next (t.withUnread id before) := by
  cases running : s.run with
  | false =>
    cases (cycle_of_halted running).symm.trans answer
    exact cycle_of_halted (s := s.withUnread id before) running
  | true =>
    rcases cycle_next_of_run running answer with ⟨i, u, decoded, executed, rfl⟩ | ⟨e, unknown, rfl⟩
    · have executed' := exec_withUnread before (fun _ => rfl) executed
      exact cycle_of_decode (s := s.withUnread id before) running decoded executed'
    · rw [cycle_of_unknown (s := s.withUnread id before) running unknown]
      exact congrArg (fun u : State => Host.Outcome.next u.countCycle) (State.raise_withUnread s.advance id before _ _)

/-- Settles O40: the case of no event in front and a constant in the sound timer. -/
theorem soundTimerNeverRead : Obligations.SoundTimerNeverRead := by
  intro i s t b not_ldStVx answer
  exact exec_withUnread (g := fun _ => b) [] (fun ⟨x, is⟩ => absurd is (not_ldStVx x)) answer

/-- Settles O59: the case of the sound timer as it is. -/
theorem eventsNeverInfluence : Obligations.EventsNeverInfluence :=
  fun _ _ before answer => cycle_withUnread before answer

end Sys2Proof.Machine
end

section
/-! Block moves (42_index_and_memory.md R124, R125) and sprites (43_display.md R130 to R132): what the stores, the loads and the
draws leave, and what one of each leaves to the next. -/

namespace Sys2Proof.Machine

/-! ### The flag as a byte (R11) -/

theorem flagByte_zero_or_one (f : Bool) : flagByte f = 0 ∨ flagByte f = 1 := by
  cases f
  · exact .inl rfl
  · exact .inr rfl

/-- The registers `0` to `x` are the first `x + 1`. -/
theorem nibble_le_iff_lt_succ (r x : Nibble) : r ≤ x ↔ r.toNat < x.toNat + 1 := by
  rw [BitVec.le_def, Nat.lt_succ_iff]

/-! ### Sprites (R131) -/

/-- What a sprite covers is told by the bytes from `I` on alone. -/
theorem State.spriteCovers_congr {s t : State} (bytes : ∀ a, t.memRead a = s.memRead a) (index : t.i = s.i) (cx cy : Byte)
    (n : Nat) (r : Fin 32) (c : Fin 64) : t.spriteCovers cx cy n r c = s.spriteCovers cx cy n r c := by
  simp only [State.spriteCovers, State.elementAddr, bytes, index]

/-- Settles O34: the coordinates are read before VF is cleared, and from VF = 0 on the rows flip what the sprite covers
(`pixel_drawRows`) and set VF where that was 1 (`flag_drawRows`). -/
theorem spriteDrawnExactly : Obligations.SpriteDrawnExactly := by
  intro x y n s
  have rows : n.toNat ≤ 16 := n.isLt.le
  have cleared : (s.setReg vf 0).reg 0xF = 0 := s.reg_setReg_self vf 0
  obtain ⟨collides, misses⟩ := (s.setReg vf 0).flag_drawRows (s.reg x) (s.reg y) n.toNat rows cleared
  exact ⟨_, exec_drw x y n s, (s.setReg vf 0).pixel_drawRows _ _ _ rows, collides, misses,
    s.setReg_drawRows_regsKeptBut _ _ _ rows, s.setReg_drawRows_onlyChanges _ _ _ _ _⟩

/-- Settles O35: the second draw reads the same coordinates and the same bytes, so it covers the same pixels; on a blank
framebuffer those are the pixels the first one set. -/
theorem spriteDrawnTwiceRestores : Obligations.SpriteDrawnTwiceRestores := by
  intro x y n s x_not_vf y_not_vf
  obtain ⟨t, first, t_pixel, -, t_misses, t_regs, t_frame⟩ := spriteDrawnExactly x y n s
  obtain ⟨u, second, u_pixel, u_collides, u_misses, -, -⟩ := spriteDrawnExactly x y n t
  have same_x : t.reg x = s.reg x := t_regs x (by simpa using x_not_vf)
  have same_y : t.reg y = s.reg y := t_regs y (by simpa using y_not_vf)
  have same_cover (r c) : t.spriteCovers (s.reg x) (s.reg y) n.toNat r c = s.spriteCovers (s.reg x) (s.reg y) n.toNat r c :=
    State.spriteCovers_congr (t_frame .mem (by simp)) (t_frame .i (by simp)) _ _ _ r c
  simp only [same_x, same_y, same_cover] at u_pixel u_collides u_misses
  refine ⟨t, first, u, second, fun r c => ?restored, fun blank => ⟨t_misses fun r c _ => blank r c, ?collides, ?misses⟩⟩
  case restored => rw [u_pixel, t_pixel, Bool.xor_assoc, Bool.xor_self, Bool.xor_false]
  case collides =>
    rintro ⟨r, c, set⟩
    have covered : s.spriteCovers (s.reg x) (s.reg y) n.toNat r c = true := by
      rw [← set, t_pixel, blank, Bool.false_xor]
    exact u_collides ⟨r, c, covered, set⟩
  case misses => exact fun unset => u_misses fun r c _ => unset r c

/-- Settles O33. -/
theorem screenCleared : Obligations.ScreenCleared :=
  fun s => ⟨_, exec_cls s, s.pixel_clearFb, s.clearFb_onlyChanges⟩

/-- Settles O24: the five of the ALU end with a flag's byte in VF, and DRW with 1 or 0 as a covered pixel was 1 or none was. -/
theorem flagIsZeroOrOne : Obligations.FlagIsZeroOrOne := by
  intro x y n s i listed
  have of_flag {b : Byte} {f : Bool} (answer : exec i s = .next (s.setRegThenFlag x b f)) :
      ∃ t, exec i s = .next t ∧ (t.reg 0xF = 0 ∨ t.reg 0xF = 1) :=
    ⟨_, answer, by rw [State.reg_setRegThenFlag_vf]; exact flagByte_zero_or_one f⟩
  simp only [List.mem_cons, List.not_mem_nil, or_false] at listed
  rcases listed with rfl | rfl | rfl | rfl | rfl | rfl
  · exact of_flag (exec_addReg x y s)
  · exact of_flag (exec_subReg x y s)
  · exact of_flag (exec_shr x y s)
  · exact of_flag (exec_subn x y s)
  · exact of_flag (exec_shl x y s)
  · obtain ⟨t, answer, -, collides, misses, -, -⟩ := spriteDrawnExactly x y n s
    refine ⟨t, answer, ?_⟩
    by_cases hit : ∃ r c, s.spriteCovers (s.reg x) (s.reg y) n.toNat r c = true ∧ s.pixel r c = true
    · exact .inr (collides hit)
    · exact .inl (misses fun r c covered => Bool.eq_false_iff.mpr fun set => hit ⟨r, c, covered, set⟩)

/-! ### Block moves (R124, R125) -/

/-- Settles O30 (`memRead_storeRegs`). -/
theorem registersStored : Obligations.RegistersStored := by
  intro x s
  obtain ⟨stored, others⟩ := s.memRead_storeRegs (x.toNat + 1) x.isLt
  refine ⟨_, exec_store x s, fun r listed => ?_, fun a ha out => ?_, s.storeRegs_onlyChanges _⟩
  · exact stored r ((nibble_le_iff_lt_succ r x).mp listed)
  · exact others a ha fun j below => out j (Nat.le_of_lt_succ below)

/-- Settles O31 (`reg_loadRegs`). -/
theorem registersLoaded : Obligations.RegistersLoaded := by
  intro x s
  have loaded := s.reg_loadRegs (x.toNat + 1) x.isLt
  refine ⟨_, exec_load x s, fun r listed => ?_, fun r above => ?_, s.loadRegs_onlyChanges _⟩
  · rw [loaded, if_pos ((nibble_le_iff_lt_succ r x).mp listed)]
  · rw [loaded, if_neg (by bv_omega)]

/-- Settles O32: the load reads the elements that the store wrote, for `I` is the same. -/
theorem storeThenLoadRestores : Obligations.StoreThenLoadRestores := by
  intro x s
  obtain ⟨t, store, stored, -⟩ := registersStored x s
  refine ⟨t, store, fun u bytes index => ?_⟩
  obtain ⟨v, load, loaded, -⟩ := registersLoaded x u
  have same_elements (k : Nat) : u.elementAddr k = s.elementAddr k := by simp only [State.elementAddr, index]
  exact ⟨v, load, fun r listed => by rw [loaded r listed, bytes, same_elements, stored r listed]⟩

end Sys2Proof.Machine
end

section
/-! The rest of the ALU, the keys and `DT` (41_alu.md R104 to R106, R109, R111, R112; 44_keypad_and_timers.md R140, R141, R143), with
the call that returns (40_control_flow.md R81, R83) and the sum in `I` (42_index_and_memory.md R121). -/

namespace Sys2Proof.Machine

/-! ### The values written -/

/-- A flag taken from a bit of a byte is that bit's digit (R109, R111). -/
theorem flagByte_getLsbD_toNat (b : Byte) (k : Nat) : (flagByte (b.getLsbD k)).toNat = b.toNat / 2 ^ k % 2 := by
  rw [← Nat.toNat_testBit]
  show _ = (b.getLsbD k).toNat
  cases b.getLsbD k <;> rfl

theorem flagByte_shiftedOutLow_toNat (b : Byte) : (flagByte (shiftedOutLow b)).toNat = b.toNat % 2 := by
  rw [shiftedOutLow, flagByte_getLsbD_toNat, pow_zero, Nat.div_one]

theorem flagByte_shiftedOutHigh_toNat (b : Byte) : (flagByte (shiftedOutHigh b)).toNat = b.toNat / 128 := by
  have b_lt := b.isLt
  rw [shiftedOutHigh, flagByte_getLsbD_toNat]
  omega

theorem byte_ushiftRight_one_toNat (b : Byte) : (b >>> 1).toNat = b.toNat / 2 := by
  rw [BitVec.toNat_ushiftRight, Nat.shiftRight_eq_div_pow, pow_one]

theorem byte_shiftLeft_one_toNat (b : Byte) : (b <<< 1).toNat = 2 * b.toNat % 256 := by
  rw [BitVec.toNat_shiftLeft, Nat.shiftLeft_eq, pow_one, mul_comm]

/-- The key selected is the one numbered by the register modulo 16 (D7). -/
theorem State.selectedKey_eq {s : State} {x k : Nibble} (number : k.toNat = (s.reg x).toNat % 16) : s.selectedKey x = k := by
  apply BitVec.eq_of_toNat_eq
  rw [number, State.selectedKey, BitVec.extractLsb'_toNat, Nat.shiftRight_zero]

/-! ### The statements -/

/-- Settles O17: the call leaves the advanced `pc` as the newest entry, which is what RET takes. -/
theorem callThenReturnComesBack : Obligations.CallThenReturnComesBack := by
  intro nnn s room
  refine ⟨_, exec_call_of_room room nnn, fun u pushed => ?_⟩
  exact ⟨_, exec_ret_of_stack pushed, rfl, rfl, rfl⟩

/-- Settles O20: each of the three is one register write of a bitwise operation. -/
theorem logicOperationsAreBitwise : Obligations.LogicOperationsAreBitwise := by
  intro x y s
  have writes {i : Instr} {b : Byte} {bits : Nat → Bool} (answer : exec i s = .next (s.setReg x b))
      (bitwise : ∀ k, b.getLsbD k = bits k) : ∃ t, exec i s = .next t ∧ s.regsKeptBut t [x] ∧ s.onlyChanges t [.v] ∧
        ∀ k < 8, (t.reg x).getLsbD k = bits k :=
    ⟨_, answer, s.setReg_regsKeptBut x b, s.setReg_onlyChanges x b, fun k _ => by rw [State.reg_setReg_self, bitwise]⟩
  refine ⟨?orReg, ?andReg, ?xorReg⟩
  case orReg => exact writes (exec_orReg x y s) fun _ => BitVec.getLsbD_or
  case andReg => exact writes (exec_andReg x y s) fun _ => BitVec.getLsbD_and
  case xorReg => exact writes (exec_xorReg x y s) fun _ => BitVec.getLsbD_xor

/-- Settles O23: whichever register the operand is from, it is shifted by one place and the bit shifted out is the flag. -/
theorem shiftsUnderBothSources : Obligations.ShiftsUnderBothSources := by
  intro x y s operand is_operand
  have source : s.shiftOperand x y = operand := is_operand.symm
  refine ⟨⟨_, exec_shr x y s, ?_, fun not_vf => ?_, s.setRegThenFlag_regsKeptBut _ _ _, s.setRegThenFlag_onlyChanges _ _ _⟩,
    _, exec_shl x y s, ?_, fun not_vf => ?_, s.setRegThenFlag_regsKeptBut _ _ _, s.setRegThenFlag_onlyChanges _ _ _⟩
  · rw [State.reg_setRegThenFlag_vf, source, flagByte_shiftedOutLow_toNat]
  · rw [s.reg_setRegThenFlag_dest not_vf, source, byte_ushiftRight_one_toNat]
  · rw [State.reg_setRegThenFlag_vf, source, flagByte_shiftedOutHigh_toNat]
  · rw [s.reg_setRegThenFlag_dest not_vf, source, byte_shiftLeft_one_toNat]

/-- Settles O25: the draw is counted and its byte masked, whatever it is. -/
theorem randomIsMasked : Obligations.RandomIsMasked := by
  intro x nn s
  have written : (s.countDraw.setReg x (s.rnd &&& nn)).reg x = Config.randomByte s.draws &&& nn :=
    s.countDraw.reg_setReg_self x _
  refine ⟨decodeWord_encode (.rnd x nn) rfl, _, exec_rnd x nn s, written, Nat.lt_succ_self _, fun k masked => ?_,
    s.countDraw.setReg_regsKeptBut x _, s.countDraw_setReg_onlyChanges x _⟩
  rw [written, BitVec.getLsbD_and, masked, Bool.and_false]

/-- Settles O27: 16-bit addition reduces modulo 65536. -/
theorem addIndexWraps : Obligations.AddIndexWraps := by
  intro x s
  refine ⟨_, exec_addI x s, ?_, s.setI_onlyChanges _⟩
  rw [State.setI_i, BitVec.toNat_add, zextByte_toNat]

/-- Settles O36: both are skips on the selected key. -/
theorem keySkips : Obligations.KeySkips := by
  intro x k s number
  have key := State.selectedKey_eq number
  refine ⟨⟨_, exec_skp x s, ?_, s.skipIf_onlyChanges _⟩, _, exec_sknp x s, ?_, s.skipIf_onlyChanges _⟩
  · rw [State.skipIf_pc, key]
  · rw [State.skipIf_pc, key]
    cases s.keyDown k <;> rfl

/-- Settles O38. -/
theorem delayTimerRead : Obligations.DelayTimerRead :=
  fun x s => ⟨_, exec_ldVxDt x s, s.reg_setReg_self x _, s.setReg_regsKeptBut x _, s.setReg_onlyChanges x _⟩

end Sys2Proof.Machine
end

section
/-! The timer engine, the watchdog and the host's commands (60_exceptions.md R171, R175, R178 to R182; 20_memory.md R49;
70_reset_and_hazards.md R200, R201). -/

namespace Sys2Proof.Machine

variable {s t : State}

/-! ### The timer engine (R171) -/

/-- A timer counts down by 1 and stops at 0, as subtraction of natural numbers does. -/
theorem countDown_toNat (b : Byte) : (countDown b).toNat = b.toNat - 1 := by
  unfold countDown
  split
  · simp [*]
  · bv_omega

/-- A Running machine's timer step decrements both timers (D15). -/
theorem timerStep_of_run (running : s.run = true) :
    timerStep s = .next ((s.setDt (countDown s.dt)).setSt (countDown s.st)) := by
  rw [timerStep, if_pos running]

theorem State.setDt_setSt_onlyChanges (s : State) (a b : Byte) : s.onlyChanges ((s.setDt a).setSt b) [.dt, .st] :=
  State.onlyChanges_trans (State.onlyChanges_mono (s.setDt_onlyChanges a) (by simp))
    (State.onlyChanges_mono ((s.setDt a).setSt_onlyChanges b) (by simp))

/-- With a timer tick pending, a Running machine's step takes it, lowers both timers by 1 and leaves the machine Running. -/
theorem step_timerTick {rest : List Input} (running : s.run = true) (pending : s.inputs = .timerTick :: rest) :
    ∃ t, step s = .next t ∧ t.run = true ∧ t.inputs = rest ∧ t.dt.toNat = s.dt.toNat - 1 ∧ t.st.toNat = s.st.toNat - 1 :=
  ⟨_, (step_of_pending pending).trans (timerStep_of_run running), running, rfl, countDown_toNat s.dt, countDown_toNat s.st⟩

/-- A run of `k + 1` steps goes on after the first. -/
theorem run_succ_of_step {M : Host.Core} {s t : M.State} (answer : M.step s = .next t) (k : Nat) :
    M.run (k + 1) s = M.run k t := by
  rw [Host.Core.run, answer]

/-- Settles O41. -/
theorem timerStepCountsDown : Obligations.TimerStepCountsDown := by
  intro s running
  exact ⟨_, timerStep_of_run running, countDown_toNat s.dt, countDown_toNat s.st, s.setDt_setSt_onlyChanges _ _⟩

/-- Settles O42, by induction on the number of ticks: each step takes one and lowers both timers by 1. -/
theorem timersReachZeroAndStay : Obligations.TimersReachZeroAndStay := by
  intro k
  induction k with
  | zero => exact fun s _ _ => ⟨s, rfl, rfl, rfl⟩
  | succ k ih =>
    intro s running pending
    obtain ⟨t, first, still_running, pending, dt, st⟩ := step_timerTick running pending
    obtain ⟨u, rest, dt', st'⟩ := ih t still_running pending
    exact ⟨u, (run_succ_of_step (M := Sys2Proof.core) first k).trans rest, by omega, by omega⟩

/-! ### The watchdog (R180) -/

/-- The watchdog is enabled exactly when `CYCLES` exceeds a limit that is present (C2). -/
theorem State.overLimit_of_limit {l : Nat} (limit : s.limit = some l) : s.overLimit = decide (l < s.cycles) := by
  simp only [State.overLimit, limit]

theorem State.overLimit_of_no_limit (limit : s.limit = none) : s.overLimit = false := by
  simp only [State.overLimit, limit]

/-- A watchdog that is not enabled does nothing. -/
theorem watchdogStep_of_not_over (within : s.overLimit = false) : watchdogStep s = .next s := by
  rw [watchdogStep, within, Bool.and_false, if_neg Bool.false_ne_true]

/-- Settles O43: by whether a limit is present and exceeded. -/
theorem watchdogHaltsPastLimit : Obligations.WatchdogHaltsPastLimit := by
  intro s
  refine ⟨fun running l limit exceeded => ?_, fun l limit within => ?_, fun limit => ?_, watchdogStep_of_halted⟩
  · have enabled : s.overLimit = true := by simpa [State.overLimit_of_limit limit] using exceeded
    rw [watchdogStep, running, enabled]
    rfl
  · exact watchdogStep_of_not_over (by simpa [State.overLimit_of_limit limit] using within)
  · exact watchdogStep_of_not_over (State.overLimit_of_no_limit limit)

/-! ### The host's commands -/

/-- A load that does not fit, on a Halted machine, only answers (R49). -/
theorem hostLoad_of_too_large {bytes : List Byte} {given : Option Nat} (halted : s.run = false)
    (too_large : ¬ bytes.length + loadOrigin given ≤ 4096) :
    hostLoad bytes given s = .next (s.setAnswer (some .romTooLarge)) := by
  rw [hostLoad, if_neg (by simp [halted]), if_neg too_large]

/-- Settles O46: over the natural numbers, such a load ends above 4096. -/
theorem loadTooLargeWritesNothing : Obligations.LoadTooLargeWritesNothing := by
  rintro bytes given origin s rfl halted exceeds
  have too_large : ¬ bytes.length + loadOrigin given ≤ 4096 := by
    rw [loadOrigin]
    omega
  exact ⟨_, hostLoad_of_too_large halted too_large, rfl, s.setAnswer_onlyChanges _⟩

/-- A key write changes no field but `key`. -/
theorem State.setKey_onlyChanges (s : State) (k : Nibble) (p : Bool) : s.onlyChanges (s.setKey k p) [.key] := by
  intro f hf
  cases f
  case key => exact absurd List.mem_cons_self hf
  all_goals simp [State.sameField]

/-- An answer after a change is one more field changed. -/
theorem State.setAnswer_onlyChanges_cons {changed : List Field} (frame : s.onlyChanges t changed) (a : Option Answer) :
    s.onlyChanges (t.setAnswer a) (changed ++ [.answer]) :=
  State.onlyChanges_trans (State.onlyChanges_mono frame (by simp))
    (State.onlyChanges_mono (t.setAnswer_onlyChanges a) (by simp))

/-- Settles O47: by whether the key exists. -/
theorem setKeyLatchesOneKey : Obligations.SetKeyLatchesOneKey := by
  intro key pressed s
  refine ⟨fun listed => ?_, fun above => ?_⟩
  · have exists_key : key < 16 := by omega
    have named (k : Nibble) : k = BitVec.ofNat 4 key ↔ k.toNat = key := by
      rw [← BitVec.toNat_inj, BitVec.toNat_ofNat, Nat.mod_eq_of_lt exists_key]
    refine ⟨_, if_pos exists_key, rfl, fun k => ?_, State.setAnswer_onlyChanges_cons (s.setKey_onlyChanges _ _) _⟩
    rw [State.keyDown_setAnswer, State.keyDown_setKey]
    exact if_congr (named k) rfl rfl
  · exact ⟨_, if_neg (by omega), rfl, s.setAnswer_onlyChanges _⟩

/-- A write to `RUN` changes no other field. -/
theorem State.setRun_onlyChanges (s : State) (b : Bool) : s.onlyChanges (s.setRun b) [.run] := by
  intro f hf
  cases f
  case run => exact absurd List.mem_cons_self hf
  all_goals simp [State.sameField]

/-- A write to `LIMIT` changes no other field. -/
theorem State.setLimit_onlyChanges (s : State) (l : Option Nat) : s.onlyChanges (s.setLimit l) [.limit] := by
  intro f hf
  cases f
  case limit => exact absurd List.mem_cons_self hf
  all_goals simp [State.sameField]

/-- Settles O48. -/
theorem startAndStop : Obligations.StartAndStop := by
  intro s
  refine ⟨fun halted l => ?start, ?stop⟩
  case start =>
    have frame : s.onlyChanges ((s.setLimit l).setRun true) [.run, .limit] :=
      State.onlyChanges_trans (State.onlyChanges_mono (s.setLimit_onlyChanges l) (by simp))
        (State.onlyChanges_mono ((s.setLimit l).setRun_onlyChanges true) (by simp))
    exact ⟨_, hostStart_of_halted halted l, rfl, rfl, rfl, State.setAnswer_onlyChanges_cons frame _⟩
  case stop => exact ⟨_, rfl, rfl, rfl, State.setAnswer_onlyChanges_cons (s.setRun_onlyChanges false) _⟩

/-- What a reset makes fresh is fresh, field by field, whatever the machine held (R25). -/
theorem State.fresh_isFresh (s : State) (a : Option Answer) : (s.fresh.setAnswer a).isFresh := by
  refine ⟨fun r => ?registers, rfl, rfl, rfl, rfl, fun k => ?keys, fun r c => ?pixels, fun _ => rfl, rfl, rfl, rfl, rfl, rfl⟩
  case registers => simp [State.reg, State.setAnswer, State.fresh, State.reset]
  case keys => simp [State.keyDown, State.setAnswer, State.fresh, State.reset]
  case pixels => simp [State.pixel, State.setAnswer, State.fresh, State.reset]

/-- Settles O49: the state after power-on is itself what a reset makes of it. -/
theorem resetGivesFreshState : Obligations.ResetGivesFreshState :=
  ⟨State.reset.fresh_isFresh none, fun s halted => ⟨_, hostReset_of_halted halted, s.fresh_isFresh _, rfl, rfl⟩⟩

/-- Settles O51: each of the three commands looks at `RUN` first. -/
theorem runningMachineRefusesCommands : Obligations.RunningMachineRefusesCommands := by
  intro bytes given l s running
  exact ⟨if_pos running, if_pos running, if_pos running⟩

/-- Settles O52. -/
theorem snapshotShowsAndChangesNothing : Obligations.SnapshotShowsAndChangesNothing := by
  intro s
  exact ⟨s.setAnswer (some (.snapshot s.snapshot)), s.snapshot, rfl, rfl, s.setAnswer_onlyChanges _, fun _ _ => rfl,
    fun _ => rfl, rfl, rfl, rfl, rfl, rfl, rfl, rfl, rfl⟩

end Sys2Proof.Machine
end
